-- ==== Sys2Proof/Word.lean ====
section
/-! DEFINITION. The word types of the Chippy8 CORE: bytes, 16-bit words, 12-bit addresses and the 4-bit
fields of an instruction (spec/00_scope.md R9, R12; spec/30_encoding.md R101). -/

namespace Sys2Proof

/-- A byte: a cell of memory, a general register, a timer (R31, R42, R47). -/
abbrev Byte := BitVec 8

/-- A 16-bit word: an instruction, PC, I, a stack entry (R37, R39, R40, R100). -/
abbrev Word := BitVec 16

/-- The field `nnn`: a 12-bit address (R101, R103). -/
abbrev Addr12 := BitVec 12

/-- A 4-bit field: the sub-opcode or row count `n` (R101). -/
abbrev Nibble := BitVec 4

/-- A general register's number, a 4-bit field value (R31). -/
abbrev Reg := BitVec 4

/-- The number of VF, the flag register (R14, R34). -/
abbrev VF : Reg := 0xF#4

/-- A keypad slot, 0 to 15 (R9, R49). -/
abbrev Slot := Fin 16

/-- One keypad snapshot: 16 key-pressed flags, `true` meaning pressed (R14, R49, R304). -/
abbrev Keypad := Vector Bool 16

end Sys2Proof
end

