-- ==== Sys2Proof/Config.lean ====
section
/-! DEFINITION. What is fixed for one machine: the constants the CORE fixes (R9), the launch parameters the spec
leaves open (R10; decisions D12, D15, D16) and the free values of a step (R11, R17, R149; decisions D13, D14, D20,
D29). A parameter or a free value has no body, so nothing can be proved of it beyond its type. -/

namespace Sys2Proof

/-- MEM_SIZE (R9). -/
abbrev Config.memSize : Nat := 4096

/-- PROG_START: the reset PC and the ROM load address (R9). -/
abbrev Config.progStart : Nat := 0x200

/-- ROM_MAX: the longest ROM a load accepts (R9, R321). -/
abbrev Config.romMax : Nat := 3584

/-- STACK_DEPTH (R9). -/
abbrev Config.stackDepth : Nat := 16

/-- FB_W (R9). -/
abbrev Config.fbWidth : Nat := 64

/-- FB_H (R9). -/
abbrev Config.fbHeight : Nat := 32

/-! ### Launch parameters left open (R10). Log entry 4. -/

/-- FONT_BASE, with its constraint FONT_BASE + 80 ≤ 0x200 in the type (R10, D15). DESIGN CHOICE (log entry 4), safe. -/
opaque Config.fontBase : Fin 433

/-- FONT_DATA, 80 bytes (R10, D15). DESIGN CHOICE (log entry 4), safe. -/
opaque Config.fontData : Fin 80 → Byte

/-- LOW_MEM, the bytes of 0x000 to 0x1FF outside the font (R10, D16). DESIGN CHOICE (log entry 4), safe. -/
opaque Config.lowMem : Nat → Byte

/-- KEYMAP, the permutation from key value to keypad slot (R10, R246, D12). DESIGN CHOICE (log entry 4), safe. -/
opaque Config.keymap : Equiv.Perm Slot

/-! ### The values the spec suggests for them (R10, GK3, GK4). No definition of the machine uses these two: a claim
about a conventional launch takes `Config.fontBase = Config.suggestedFontBase` and so on as named premises. -/

/-- The suggested FONT_BASE (R10, GK4). -/
def Config.suggestedFontBase : Fin 433 := 0x050

/-- The suggested FONT_DATA: five bytes for each glyph 0 to F (R10, GK3). -/
def Config.suggestedFont : List Byte :=
  [0xF0, 0x90, 0x90, 0x90, 0xF0] ++ [0x20, 0x60, 0x20, 0x20, 0x70] ++ [0xF0, 0x10, 0xF0, 0x80, 0xF0] ++
  [0xF0, 0x10, 0xF0, 0x10, 0xF0] ++ [0x90, 0x90, 0xF0, 0x10, 0x10] ++ [0xF0, 0x80, 0xF0, 0x10, 0xF0] ++
  [0xF0, 0x80, 0xF0, 0x90, 0xF0] ++ [0xF0, 0x10, 0x20, 0x40, 0x40] ++ [0xF0, 0x90, 0xF0, 0x90, 0xF0] ++
  [0xF0, 0x90, 0xF0, 0x10, 0xF0] ++ [0xF0, 0x90, 0xF0, 0x90, 0x90] ++ [0xE0, 0x90, 0xE0, 0x90, 0xE0] ++
  [0xF0, 0x80, 0x80, 0x80, 0xF0] ++ [0xE0, 0x90, 0x90, 0x90, 0xE0] ++ [0xF0, 0x80, 0xF0, 0x80, 0xF0] ++
  [0xF0, 0x80, 0xF0, 0x80, 0x80]

/-! ### Free values of a step (R11, R140). Each is applied to `State.clock`, the plain counter that a step advances;
a step takes one only where the host has not fixed that input in `State.inp`. Log entries 1 and 2. -/

/-- The byte `draw_random()` returns (R17, D14). DESIGN CHOICE (log entry 1), safe. -/
opaque Config.randomByte : Nat → Byte

/-- Which element of the pressed keys `draw_key(P)` takes, as an index modulo their number (R17, D13).
DESIGN CHOICE (log entry 1), safe. -/
opaque Config.keyPick : Nat → Nat

/-- The keypad snapshot of a step (R49, D29). DESIGN CHOICE (log entry 1), safe. -/
opaque Config.keypad : Nat → Keypad

/-- How many timer ticks come before a step (R149, D20). DESIGN CHOICE (log entry 2), safe. -/
opaque Config.ticksBefore : Nat → Nat

end Sys2Proof
end

