-- ==== Sys2Proof/Syntax.lean ====
section
/-! DEFINITION. The instructions: one constructor per row of spec/opcode_table.json, in the table's order, each
carrying the fields its layout has (R101, R102). The fields an operation ignores (R114: `n` of 5xyn and 9xyn, `y` of
the two shifts) stay in the constructor, so that an instruction keeps every bit of its word. `Unknown` (R113) is no
row of the table; the decoder answers it as a value of its own (Sys2Proof/Decode.lean). -/

namespace Sys2Proof

/-- The 34 named operations (R3, R104, R112). -/
inductive Instr where
  /-- 00E0, CLS (R260). -/
  | clearScreen
  /-- 00EE, RET (R173). -/
  | ret
  /-- 1nnn, JP nnn (R170). -/
  | jump (nnn : Addr12)
  /-- 2nnn, CALL nnn (R172). -/
  | call (nnn : Addr12)
  /-- 3xnn, SE Vx, nn (R174). -/
  | skipEqImm (x : Reg) (nn : Byte)
  /-- 4xnn, SNE Vx, nn (R175). -/
  | skipNeImm (x : Reg) (nn : Byte)
  /-- 5xy_, SE Vx, Vy; `n` is ignored (R176, D1). -/
  | skipEqReg (x y : Reg) (n : Nibble)
  /-- 6xnn, LD Vx, nn (R190). -/
  | setReg (x : Reg) (nn : Byte)
  /-- 7xnn, ADD Vx, nn (R191). -/
  | addToReg (x : Reg) (nn : Byte)
  /-- 8xy0, LD Vx, Vy (R193). -/
  | set (x y : Reg)
  /-- 8xy1, OR Vx, Vy (R194). -/
  | or (x y : Reg)
  /-- 8xy2, AND Vx, Vy (R195). -/
  | and (x y : Reg)
  /-- 8xy3, XOR Vx, Vy (R196). -/
  | xor (x y : Reg)
  /-- 8xy4, ADD Vx, Vy (R197). -/
  | add (x y : Reg)
  /-- 8xy5, SUB Vx, Vy (R198). -/
  | subtract (x y : Reg)
  /-- 8xy6, SHR Vx; `y` is ignored (R200). -/
  | shiftRight (x y : Reg)
  /-- 8xy7, SUBN Vx, Vy (R199). -/
  | subtractReverse (x y : Reg)
  /-- 8xyE, SHL Vx; `y` is ignored (R201). -/
  | shiftLeft (x y : Reg)
  /-- 9xy_, SNE Vx, Vy; `n` is ignored (R177, D1). -/
  | skipNeReg (x y : Reg) (n : Nibble)
  /-- Annn, LD I, nnn (R220). -/
  | setIndex (nnn : Addr12)
  /-- Bnnn, JP V0, nnn (R171). -/
  | jumpWithOffset (nnn : Addr12)
  /-- Cxnn, RND Vx, nn (R202). -/
  | random (x : Reg) (nn : Byte)
  /-- Dxyn, DRW Vx, Vy, n (R262). -/
  | draw (x y : Reg) (n : Nibble)
  /-- Ex9E, SKP Vx (R243). -/
  | skipKeyPressed (x : Reg)
  /-- ExA1, SKNP Vx (R244). -/
  | skipKeyNotPressed (x : Reg)
  /-- Fx07, LD Vx, DT (R242). -/
  | readDelayTimer (x : Reg)
  /-- Fx0A, LD Vx, K (R245). -/
  | waitForKeypress (x : Reg)
  /-- Fx15, LD DT, Vx (R240). -/
  | setDelayTimer (x : Reg)
  /-- Fx18, LD ST, Vx (R241). -/
  | setSoundTimer (x : Reg)
  /-- Fx1E, ADD I, Vx (R221). -/
  | addToIndex (x : Reg)
  /-- Fx29, LD F, Vx (R222). -/
  | getFontChar (x : Reg)
  /-- Fx33, LD B, Vx (R223). -/
  | bcdConversion (x : Reg)
  /-- Fx55, LD [I], Vx (R224). -/
  | store (x : Reg)
  /-- Fx65, LD Vx, [I] (R225). -/
  | load (x : Reg)
  deriving DecidableEq, Repr

end Sys2Proof
end

