-- ==== Sys2Proof/WellFormed.lean ====
section
/-! DEFINITION. What the spec demands of data from outside before the CORE uses it: the ranges of an instruction's
fields (R101, R103), the length of a ROM (R321) and the place of the font (R10). The fields' ranges are held by
the types of `Instr`, so `Instr.wellFormed` accepts every term (`Instr.wellFormed_all`); the same ranges are checked
on bare numbers by `FieldNumbers.wellFormed`, and there an ill-formed term exists. -/

namespace Sys2Proof

/-- The six fields of a word as bare numbers, before they are known to fit their widths (R101). -/
structure FieldNumbers where
  op : Nat
  x : Nat
  y : Nat
  n : Nat
  nn : Nat
  nnn : Nat
  deriving DecidableEq, Repr

/-- Each field fits its width and the overlapping fields agree: nn = y ++ n and nnn = x ++ y ++ n (R101). -/
def FieldNumbers.wellFormed (f : FieldNumbers) : Bool :=
  decide (f.op < 16) && decide (f.x < 16) && decide (f.y < 16) && decide (f.n < 16) &&
    decide (f.nn = f.y * 16 + f.n) && decide (f.nnn = f.x * 256 + f.nn)

/-- A register field names one of V0 to VF (R31). -/
def Reg.wellFormed (x : Reg) : Bool := decide (x.toNat < 16)

/-- An 8-bit immediate (R103). -/
def Byte.wellFormed (nn : Byte) : Bool := decide (nn.toNat < 256)

/-- A 12-bit address (R103). -/
def Addr12.wellFormed (nnn : Addr12) : Bool := decide (nnn.toNat < 4096)

/-- Every field of an instruction is in its range (R103). No combination of field values is excluded: every word of
a named kind is legal (R110, R114). -/
def Instr.wellFormed : Instr → Bool
  | .clearScreen => true
  | .ret => true
  | .jump nnn => Addr12.wellFormed nnn
  | .call nnn => Addr12.wellFormed nnn
  | .skipEqImm x nn => Reg.wellFormed x && Byte.wellFormed nn
  | .skipNeImm x nn => Reg.wellFormed x && Byte.wellFormed nn
  | .skipEqReg x y n => Reg.wellFormed x && Reg.wellFormed y && Reg.wellFormed n
  | .setReg x nn => Reg.wellFormed x && Byte.wellFormed nn
  | .addToReg x nn => Reg.wellFormed x && Byte.wellFormed nn
  | .set x y => Reg.wellFormed x && Reg.wellFormed y
  | .or x y => Reg.wellFormed x && Reg.wellFormed y
  | .and x y => Reg.wellFormed x && Reg.wellFormed y
  | .xor x y => Reg.wellFormed x && Reg.wellFormed y
  | .add x y => Reg.wellFormed x && Reg.wellFormed y
  | .subtract x y => Reg.wellFormed x && Reg.wellFormed y
  | .shiftRight x y => Reg.wellFormed x && Reg.wellFormed y
  | .subtractReverse x y => Reg.wellFormed x && Reg.wellFormed y
  | .shiftLeft x y => Reg.wellFormed x && Reg.wellFormed y
  | .skipNeReg x y n => Reg.wellFormed x && Reg.wellFormed y && Reg.wellFormed n
  | .setIndex nnn => Addr12.wellFormed nnn
  | .jumpWithOffset nnn => Addr12.wellFormed nnn
  | .random x nn => Reg.wellFormed x && Byte.wellFormed nn
  | .draw x y n => Reg.wellFormed x && Reg.wellFormed y && Reg.wellFormed n
  | .skipKeyPressed x => Reg.wellFormed x
  | .skipKeyNotPressed x => Reg.wellFormed x
  | .readDelayTimer x => Reg.wellFormed x
  | .waitForKeypress x => Reg.wellFormed x
  | .setDelayTimer x => Reg.wellFormed x
  | .setSoundTimer x => Reg.wellFormed x
  | .addToIndex x => Reg.wellFormed x
  | .getFontChar x => Reg.wellFormed x
  | .bcdConversion x => Reg.wellFormed x
  | .store x => Reg.wellFormed x
  | .load x => Reg.wellFormed x

theorem Reg.wellFormed_all (x : Reg) : Reg.wellFormed x = true := by
  simp only [Reg.wellFormed, decide_eq_true_eq]; omega

theorem Byte.wellFormed_all (nn : Byte) : Byte.wellFormed nn = true := by
  simp only [Byte.wellFormed, decide_eq_true_eq]; omega

theorem Addr12.wellFormed_all (nnn : Addr12) : Addr12.wellFormed nnn = true := by
  simp only [Addr12.wellFormed, decide_eq_true_eq]; omega

/-- The types leave no ill-formed instruction. -/
theorem Instr.wellFormed_all (i : Instr) : i.wellFormed = true := by
  cases i <;> simp [Instr.wellFormed, Reg.wellFormed_all, Byte.wellFormed_all, Addr12.wellFormed_all]

/-- A ROM the load accepts: at most 3584 bytes; the empty ROM is accepted (R321, D31). -/
def romWellFormed (rom : List Byte) : Bool := decide (rom.length ≤ Config.romMax)

/-- A place for the font: FONT_BASE + 80 ≤ 0x200 (R10). The type of `Config.fontBase` says the same. -/
def fontBaseWellFormed (base : Nat) : Bool := decide (base + 80 ≤ Config.progStart)

end Sys2Proof
end

