-- ==== Sys2Proof/Decode.lean ====
section
/-! DEFINITION. The decoder (R104 to R110, R113), total on words and on bytes, and the encoder written from the same
table (R102, R112). The opcode map itself is the spec's decision D2 [general knowledge, GK1]. -/

namespace Sys2Proof

/-! ### Fields of a word (R101) -/

/-- `op`, bits 15 to 12. -/
def Word.op (w : Word) : Nibble := w.extractLsb' 12 4

/-- `x`, bits 11 to 8. -/
def Word.x (w : Word) : Reg := w.extractLsb' 8 4

/-- `y`, bits 7 to 4. -/
def Word.y (w : Word) : Reg := w.extractLsb' 4 4

/-- `n`, bits 3 to 0. -/
def Word.n (w : Word) : Nibble := w.extractLsb' 0 4

/-- `nn`, bits 7 to 0. -/
def Word.nn (w : Word) : Byte := w.extractLsb' 0 8

/-- `nnn`, bits 11 to 0. -/
def Word.nnn (w : Word) : Addr12 := w.extractLsb' 0 12

/-! ### The decoder -/

/-- What the decoder answers: a named operation with its fields, or `Unknown` with the word (R104, R113: "a data
value, not an exception"). -/
inductive Decoded where
  | named (i : Instr)
  | unknown (w : Word)
  deriving DecidableEq, Repr

/-- op 0: resolved by the full low 12 bits (R106). -/
def decodeOp0 (w : Word) : Decoded :=
  if w.nnn = 0x0E0#12 then .named .clearScreen
  else if w.nnn = 0x0EE#12 then .named .ret
  else .unknown w

/-- op 8: resolved by `n` (R107). -/
def decodeOp8 (w : Word) : Decoded :=
  if w.n = 0x0#4 then .named (.set w.x w.y)
  else if w.n = 0x1#4 then .named (.or w.x w.y)
  else if w.n = 0x2#4 then .named (.and w.x w.y)
  else if w.n = 0x3#4 then .named (.xor w.x w.y)
  else if w.n = 0x4#4 then .named (.add w.x w.y)
  else if w.n = 0x5#4 then .named (.subtract w.x w.y)
  else if w.n = 0x6#4 then .named (.shiftRight w.x w.y)
  else if w.n = 0x7#4 then .named (.subtractReverse w.x w.y)
  else if w.n = 0xE#4 then .named (.shiftLeft w.x w.y)
  else .unknown w

/-- op E: resolved by `nn` (R108). -/
def decodeOpE (w : Word) : Decoded :=
  if w.nn = 0x9E#8 then .named (.skipKeyPressed w.x)
  else if w.nn = 0xA1#8 then .named (.skipKeyNotPressed w.x)
  else .unknown w

/-- op F: resolved by `nn` (R109). -/
def decodeOpF (w : Word) : Decoded :=
  if w.nn = 0x07#8 then .named (.readDelayTimer w.x)
  else if w.nn = 0x0A#8 then .named (.waitForKeypress w.x)
  else if w.nn = 0x15#8 then .named (.setDelayTimer w.x)
  else if w.nn = 0x18#8 then .named (.setSoundTimer w.x)
  else if w.nn = 0x1E#8 then .named (.addToIndex w.x)
  else if w.nn = 0x29#8 then .named (.getFontChar w.x)
  else if w.nn = 0x33#8 then .named (.bcdConversion w.x)
  else if w.nn = 0x55#8 then .named (.store w.x)
  else if w.nn = 0x65#8 then .named (.load w.x)
  else .unknown w

/-- The decoder: branch on `op`, then resolve op 0, 8, E and F further; the other twelve values of `op` name a kind
each, whatever the other bits are (R105, R110). -/
def decode (w : Word) : Decoded :=
  if w.op = 0x0#4 then decodeOp0 w
  else if w.op = 0x1#4 then .named (.jump w.nnn)
  else if w.op = 0x2#4 then .named (.call w.nnn)
  else if w.op = 0x3#4 then .named (.skipEqImm w.x w.nn)
  else if w.op = 0x4#4 then .named (.skipNeImm w.x w.nn)
  else if w.op = 0x5#4 then .named (.skipEqReg w.x w.y w.n)
  else if w.op = 0x6#4 then .named (.setReg w.x w.nn)
  else if w.op = 0x7#4 then .named (.addToReg w.x w.nn)
  else if w.op = 0x8#4 then decodeOp8 w
  else if w.op = 0x9#4 then .named (.skipNeReg w.x w.y w.n)
  else if w.op = 0xA#4 then .named (.setIndex w.nnn)
  else if w.op = 0xB#4 then .named (.jumpWithOffset w.nnn)
  else if w.op = 0xC#4 then .named (.random w.x w.nn)
  else if w.op = 0xD#4 then .named (.draw w.x w.y w.n)
  else if w.op = 0xE#4 then decodeOpE w
  else decodeOpF w

/-- The word of two bytes in fetch order: the first is the high byte, `hi ++ lo` = hi * 256 + lo (R13, R70). -/
def wordOfBytes (hi lo : Byte) : Word := BitVec.ofNat 16 (hi.toNat * 256 + lo.toNat)

/-- The high byte of a word, the one at the lower address (R70). -/
def Word.hiByte (w : Word) : Byte := w.extractLsb' 8 8

/-- The low byte of a word, the one at the higher address (R70). -/
def Word.loByte (w : Word) : Byte := w.extractLsb' 0 8

/-- Why bytes are no instruction. -/
inductive Rejection where
  /-- The two bytes form a word of R113. -/
  | unknownWord (w : Word)
  /-- Fewer than the two bytes every instruction has (R100). -/
  | truncated (length : Nat)
  deriving DecidableEq, Repr

/-- The decoder on bytes: it consumes exactly two (R100) and answers the instruction with the rest, or says by name
why there is none. -/
def decodeBytes : List Byte → Except Rejection (Instr × List Byte)
  | [] => .error (.truncated 0)
  | [_] => .error (.truncated 1)
  | hi :: lo :: rest =>
    match decode (wordOfBytes hi lo) with
    | .named i => .ok (i, rest)
    | .unknown w => .error (.unknownWord w)

/-! ### The encoder, by the layouts of R102 -/

/-- Layout A: op, nnn. -/
def layoutA (op : Nibble) (nnn : Addr12) : Word := BitVec.ofNat 16 (op.toNat * 4096 + nnn.toNat)

/-- Layouts XK and X: op, x, and eight bits that are an immediate or the sub-opcode. -/
def layoutX (op : Nibble) (x : Reg) (nn : Byte) : Word :=
  BitVec.ofNat 16 (op.toNat * 4096 + x.toNat * 256 + nn.toNat)

/-- Layouts XY and XYN: op, x, y, and four bits that are a sub-opcode, a row count or ignored. -/
def layoutXY (op : Nibble) (x y : Reg) (n : Nibble) : Word :=
  BitVec.ofNat 16 (op.toNat * 4096 + x.toNat * 256 + y.toNat * 16 + n.toNat)

/-- The word of an instruction (R112). -/
def encode : Instr → Word
  | .clearScreen => 0x00E0#16
  | .ret => 0x00EE#16
  | .jump nnn => layoutA 0x1#4 nnn
  | .call nnn => layoutA 0x2#4 nnn
  | .skipEqImm x nn => layoutX 0x3#4 x nn
  | .skipNeImm x nn => layoutX 0x4#4 x nn
  | .skipEqReg x y n => layoutXY 0x5#4 x y n
  | .setReg x nn => layoutX 0x6#4 x nn
  | .addToReg x nn => layoutX 0x7#4 x nn
  | .set x y => layoutXY 0x8#4 x y 0x0#4
  | .or x y => layoutXY 0x8#4 x y 0x1#4
  | .and x y => layoutXY 0x8#4 x y 0x2#4
  | .xor x y => layoutXY 0x8#4 x y 0x3#4
  | .add x y => layoutXY 0x8#4 x y 0x4#4
  | .subtract x y => layoutXY 0x8#4 x y 0x5#4
  | .shiftRight x y => layoutXY 0x8#4 x y 0x6#4
  | .subtractReverse x y => layoutXY 0x8#4 x y 0x7#4
  | .shiftLeft x y => layoutXY 0x8#4 x y 0xE#4
  | .skipNeReg x y n => layoutXY 0x9#4 x y n
  | .setIndex nnn => layoutA 0xA#4 nnn
  | .jumpWithOffset nnn => layoutA 0xB#4 nnn
  | .random x nn => layoutX 0xC#4 x nn
  | .draw x y n => layoutXY 0xD#4 x y n
  | .skipKeyPressed x => layoutX 0xE#4 x 0x9E#8
  | .skipKeyNotPressed x => layoutX 0xE#4 x 0xA1#8
  | .readDelayTimer x => layoutX 0xF#4 x 0x07#8
  | .waitForKeypress x => layoutX 0xF#4 x 0x0A#8
  | .setDelayTimer x => layoutX 0xF#4 x 0x15#8
  | .setSoundTimer x => layoutX 0xF#4 x 0x18#8
  | .addToIndex x => layoutX 0xF#4 x 0x1E#8
  | .getFontChar x => layoutX 0xF#4 x 0x29#8
  | .bcdConversion x => layoutX 0xF#4 x 0x33#8
  | .store x => layoutX 0xF#4 x 0x55#8
  | .load x => layoutX 0xF#4 x 0x65#8

/-! ### The opcode map as masks and matches (R112) -/

/-- The mask and the match of the instruction's row of R112. -/
def Instr.row : Instr → Word × Word
  | .clearScreen => (0xFFFF#16, 0x00E0#16)
  | .ret => (0xFFFF#16, 0x00EE#16)
  | .jump _ => (0xF000#16, 0x1000#16)
  | .call _ => (0xF000#16, 0x2000#16)
  | .skipEqImm _ _ => (0xF000#16, 0x3000#16)
  | .skipNeImm _ _ => (0xF000#16, 0x4000#16)
  | .skipEqReg _ _ _ => (0xF000#16, 0x5000#16)
  | .setReg _ _ => (0xF000#16, 0x6000#16)
  | .addToReg _ _ => (0xF000#16, 0x7000#16)
  | .set _ _ => (0xF00F#16, 0x8000#16)
  | .or _ _ => (0xF00F#16, 0x8001#16)
  | .and _ _ => (0xF00F#16, 0x8002#16)
  | .xor _ _ => (0xF00F#16, 0x8003#16)
  | .add _ _ => (0xF00F#16, 0x8004#16)
  | .subtract _ _ => (0xF00F#16, 0x8005#16)
  | .shiftRight _ _ => (0xF00F#16, 0x8006#16)
  | .subtractReverse _ _ => (0xF00F#16, 0x8007#16)
  | .shiftLeft _ _ => (0xF00F#16, 0x800E#16)
  | .skipNeReg _ _ _ => (0xF000#16, 0x9000#16)
  | .setIndex _ => (0xF000#16, 0xA000#16)
  | .jumpWithOffset _ => (0xF000#16, 0xB000#16)
  | .random _ _ => (0xF000#16, 0xC000#16)
  | .draw _ _ _ => (0xF000#16, 0xD000#16)
  | .skipKeyPressed _ => (0xF0FF#16, 0xE09E#16)
  | .skipKeyNotPressed _ => (0xF0FF#16, 0xE0A1#16)
  | .readDelayTimer _ => (0xF0FF#16, 0xF007#16)
  | .waitForKeypress _ => (0xF0FF#16, 0xF00A#16)
  | .setDelayTimer _ => (0xF0FF#16, 0xF015#16)
  | .setSoundTimer _ => (0xF0FF#16, 0xF018#16)
  | .addToIndex _ => (0xF0FF#16, 0xF01E#16)
  | .getFontChar _ => (0xF0FF#16, 0xF029#16)
  | .bcdConversion _ => (0xF0FF#16, 0xF033#16)
  | .store _ => (0xF0FF#16, 0xF055#16)
  | .load _ => (0xF0FF#16, 0xF065#16)

/-- All 34 rows of R112 as (mask, match), in the table's order. -/
def opcodeRows : List (Word × Word) :=
  [(0xFFFF#16, 0x00E0#16), (0xFFFF#16, 0x00EE#16), (0xF000#16, 0x1000#16), (0xF000#16, 0x2000#16),
   (0xF000#16, 0x3000#16), (0xF000#16, 0x4000#16), (0xF000#16, 0x5000#16), (0xF000#16, 0x6000#16),
   (0xF000#16, 0x7000#16)] ++
  [(0xF00F#16, 0x8000#16), (0xF00F#16, 0x8001#16), (0xF00F#16, 0x8002#16), (0xF00F#16, 0x8003#16),
   (0xF00F#16, 0x8004#16), (0xF00F#16, 0x8005#16), (0xF00F#16, 0x8006#16), (0xF00F#16, 0x8007#16),
   (0xF00F#16, 0x800E#16)] ++
  [(0xF000#16, 0x9000#16), (0xF000#16, 0xA000#16), (0xF000#16, 0xB000#16), (0xF000#16, 0xC000#16),
   (0xF000#16, 0xD000#16)] ++
  [(0xF0FF#16, 0xE09E#16), (0xF0FF#16, 0xE0A1#16), (0xF0FF#16, 0xF007#16), (0xF0FF#16, 0xF00A#16),
   (0xF0FF#16, 0xF015#16), (0xF0FF#16, 0xF018#16), (0xF0FF#16, 0xF01E#16), (0xF0FF#16, 0xF029#16),
   (0xF0FF#16, 0xF033#16), (0xF0FF#16, 0xF055#16), (0xF0FF#16, 0xF065#16)]

/-- The word matches the row. -/
def Word.matchesRow (w : Word) (row : Word × Word) : Bool := decide (w &&& row.1 = row.2)

/-! ### The host's view of a table row -/

/-- The 16-bit word whose low `nbits` bits are those of `w`, the bits above being 0. -/
def tableWord (nbits w : Nat) : Word := BitVec.ofNat 16 (w % 2 ^ nbits)

/-- The instruction the decoder reads from the bytes of `tableWord nbits w` as the hardware stores them. -/
def decodeTableWord (nbits w : Nat) : Option Instr :=
  match decodeBytes [(tableWord nbits w).hiByte, (tableWord nbits w).loByte] with
  | .ok (i, _) => some i
  | .error _ => none

end Sys2Proof
end

