-- ==== Sys2Proof/Machine/State.lean ====
section
/-! DEFINITION. The state of the CORE as plain data, every component of R30 to R52, the host's stop flag (R311), the
inputs of the next step (R11, R306), and the reasons a step answers no next state. -/

namespace Sys2Proof.Machine

/-- `mem` (R47): the cells that differ from what an unlisted address reads as, in rising order of address
(`Memory.wf` in Ops.lean). -/
abbrev Memory := List Host.Cell

/-- FB (R48, R261): 32 rows, top first, of 64 pixels, left first. -/
abbrev Framebuffer := Vector (Vector Bool 64) 32

/-- The run-time fault causes (R281). -/
inductive Cause where
  /-- Executing a word that decodes to Unknown (R282). -/
  | unknownOpcode
  /-- `call` with 16 entries on the stack (R172). -/
  | stackOverflow
  /-- `return` with an empty stack (R173). -/
  | stackUnderflow
  /-- A fetch with PC < 0x200 or PC > 0xFFE (R141). -/
  | fetchOutOfBounds
  /-- A fetch with an odd PC inside the window (R141). -/
  | misalignedFetch
  /-- `draw`, `bcd-conversion`, `store` or `load` touching an address above 0xFFF (R75). -/
  | memoryOutOfBounds
  /-- A key skip with V[x] > 15 (R246). -/
  | keyIndexOutOfRange
  deriving DecidableEq, Repr

/-- The fault record (R51). -/
structure FaultRecord where
  cause : Cause
  /-- The instruction address: PC at the fetch of the faulting step. -/
  addr : Word
  /-- The fetched word; none where nothing was fetched. -/
  word : Option Word
  /-- The illegal data address, or the key value; otherwise none. -/
  info : Option Word
  deriving DecidableEq, Repr

/-- Whether the engine may step (R50). -/
inductive Status where
  | running
  | stopped
  | faulted (rec : FaultRecord)
  deriving DecidableEq, Repr

/-- The inputs of the next step as far as the host has fixed them (R11, R140, R306). Where one is `none` the step
takes the free value of Config at `State.clock`. The MODEL's own data, log entries 1 and 2. -/
structure Inputs where
  /-- K, the keypad snapshot (R49). -/
  keys : Option Keypad
  /-- r, the byte `draw_random()` returns (R17). -/
  rand : Option Byte
  /-- c, the index of the pressed key `draw_key` takes, modulo their number (R17). -/
  pick : Option Nat
  /-- The number of timer ticks that come before the step (R149). -/
  ticks : Option Nat
  deriving DecidableEq, Repr

/-- Nothing fixed by the host: every input of the next step is free. -/
def Inputs.free : Inputs := { keys := none, rand := none, pick := none, ticks := none }

/-- The state of the CORE (R30). -/
structure State where
  /-- The 4096 bytes of memory (R47). -/
  mem : Memory
  /-- V0 to VF (R31). -/
  v : Vector Byte 16
  /-- I (R39). -/
  i : Word
  /-- PC (R37). -/
  pc : Word
  /-- S, the most recent entry first (R40, R41). -/
  stack : List Word
  /-- DT, the delay timer (R42). -/
  dt : Byte
  /-- ST, the sound timer (R43). -/
  st : Byte
  /-- FB (R48). -/
  fb : Framebuffer
  /-- Running, Stopped or Faulted (R50). -/
  status : Status
  /-- The host's sticky stop flag (R311). -/
  stop : Bool
  /-- The inputs of the next step: the MODEL's own field. -/
  inp : Inputs
  /-- How many steps have consumed inputs; the free values of Config are applied to it. The MODEL's own field. -/
  clock : Nat
  deriving DecidableEq, Repr

/-- Every pixel off (R48, R260). -/
def Framebuffer.blank : Framebuffer := Vector.replicate 32 (Vector.replicate 64 false)

/-- The machine right after reset with no ROM bytes placed (R320, R323): the spec's own values; `inp` and `clock` are
the MODEL's own fields, DESIGN CHOICE (log entry 1), safe. Memory lists nothing: it holds what R322 puts there. -/
def State.reset : State :=
  { mem := []
    v := Vector.replicate 16 0#8
    i := 0#16
    pc := 0x200#16
    stack := []
    dt := 0#8
    st := 0#8
    fb := Framebuffer.blank
    status := .running
    stop := false
    inp := Inputs.free
    clock := 0 }

/-- Why a step stops with a fault. The spec gives every run-time fault an effect (R290), so raising one is a NEXT
state, `State.raise`; this is the answer to a step request AFTER that. -/
inductive Fault where
  /-- The status is Faulted(rec), so no step is enabled (R140, R146). Raised by `step` alone, in every Faulted state.
  Safe: the spec gives no step there, and the record is the state's own. -/
  | halted (rec : FaultRecord)
  deriving DecidableEq, Repr

/-- Why a step or an action of the environment is refused. -/
inductive Refusal where
  /-- An instruction without a meaning. Raised by no arm of `exec`: every instruction has one. Safe. -/
  | notModelled (mnemonic : String)
  /-- The host has raised the stop flag, so no step and no tick is enabled (R300, R311). Raised by `step` in a
  Stopped state and by the tick action when the flag is set. Safe: the spec gives no transition there. -/
  | stopped
  /-- The ROM is longer than 3584 bytes: the load is rejected and no state is created (R321). Raised by the load
  action alone. Safe: it is the spec's own answer. -/
  | romTooLarge (length : Nat)
  deriving DecidableEq, Repr

end Sys2Proof.Machine
end

