-- ==== Sys2Proof/Machine/Ops.lean ====
section
/-! DEFINITION. The named operations over memory, registers and the framebuffer, and taking a fault (R290). A return
from a fault does not exist (R291), so there is no operation for it. -/

namespace Sys2Proof.Machine

/-! ### Memory (R47, R77, R78) -/

/-- What an unlisted address reads as: the reset contents of R322, before any ROM byte. FONT_DATA from FONT_BASE on,
LOW_MEM at the other bytes below 0x200, and 0 above. -/
def Memory.unlisted (a : Nat) : Byte :=
  if a < Config.progStart then
    if h : Config.fontBase.val ≤ a ∧ a < Config.fontBase.val + 80 then
      Config.fontData ⟨a - Config.fontBase.val, by omega⟩
    else Config.lowMem a
  else 0#8

/-- `MemRead(a, 1)` (R15, R77). -/
def Memory.read : Memory → Nat → Byte
  | [], a => Memory.unlisted a
  | c :: m, a => if c.1 = a then c.2 else Memory.read m a

/-- A cell put in its place among cells in rising order. -/
def Memory.insert (c : Host.Cell) : Memory → Memory
  | [] => [c]
  | d :: m => if c.1 < d.1 then c :: d :: m else d :: Memory.insert c m

/-- `MemWrite(a, 1, b)` (R15, R77): only the byte at `a` changes. A byte equal to what the unlisted address reads as
is not listed, so equal memories are equal lists. -/
def Memory.write (m : Memory) (a : Nat) (b : Byte) : Memory :=
  if b = Memory.unlisted a then m.filter (fun c => decide (c.1 ≠ a))
  else Memory.insert (a, b) (m.filter (fun c => decide (c.1 ≠ a)))

/-- Bytes written at consecutive addresses, the first at `a` (R71). -/
def Memory.writeBytes (m : Memory) (a : Nat) : List Byte → Memory
  | [] => m
  | b :: bs => Memory.writeBytes (m.write a b) (a + 1) bs

/-- Bytes read from consecutive addresses, the first from `a` (R71). -/
def Memory.readBytes (m : Memory) (a n : Nat) : List Byte := (List.range n).map (fun k => m.read (a + k))

/-- The canonical form: addresses strictly rising and inside memory, and no cell equal to what its unlisted address
reads as. -/
abbrev Memory.wf (m : Memory) : Prop :=
  m.Pairwise (fun c d => c.1 < d.1) ∧ ∀ c ∈ m, c.1 < Config.memSize ∧ c.2 ≠ Memory.unlisted c.1

/-! ### The framebuffer (R48, R261) -/

/-- FB[y][x]; a place outside the grid reads as off. -/
def Framebuffer.pixel (fb : Framebuffer) (x y : Nat) : Bool :=
  if h : y < 32 ∧ x < 64 then (fb[y]'h.1)[x]'h.2 else false

/-- FB[y][x] <- FB[y][x] xor 1; a place outside the grid changes nothing. -/
def Framebuffer.toggle (fb : Framebuffer) (x y : Nat) : Framebuffer :=
  if h : y < 32 ∧ x < 64 then fb.set y ((fb[y]'h.1).set x (!(fb[y]'h.1)[x]'h.2) h.2) h.1 else fb

/-! ### Registers -/

/-- V[x] (R14, R31). -/
def State.reg (s : State) (x : Reg) : Byte := s.v[x.toNat]'x.isLt

/-- V[x] <- b (R14, R31): no register is hardwired. -/
def State.setReg (s : State) (x : Reg) (b : Byte) : State := { s with v := s.v.set x.toNat b x.isLt }

/-- PC <- target (R37). A target is a 16-bit value, so every write is mod 2^16. -/
def State.setPc (s : State) (target : Word) : State := { s with pc := target }

/-- PC <- PC + 2 mod 2^16: the advance of a fetch (R142) and, once more, a skip (R22). -/
def State.advance (s : State) : State := s.setPc (s.pc + 2#16)

/-- A skip if the condition holds (R174 to R177). -/
def State.skipIf (s : State) (taken : Bool) : State := if taken then s.advance else s

/-- I <- w (R39). -/
def State.setI (s : State) (w : Word) : State := { s with i := w }

/-- DT <- b (R42). -/
def State.setDt (s : State) (b : Byte) : State := { s with dt := b }

/-- ST <- b (R43). -/
def State.setSt (s : State) (b : Byte) : State := { s with st := b }

/-- The framebuffer replaced. -/
def State.setFb (s : State) (fb : Framebuffer) : State := { s with fb := fb }

/-- Memory replaced. -/
def State.setMem (s : State) (m : Memory) : State := { s with mem := m }

/-- The stack replaced. -/
def State.setStack (s : State) (stack : List Word) : State := { s with stack := stack }

/-- push(S, w) (R14, R40). -/
def State.push (s : State) (w : Word) : State := s.setStack (w :: s.stack)

/-! ### Taking a fault -/

/-- `raise cause(info)` in a step whose instruction address is PC (R16, R290): the state keeps every value it had
before the step, and only the status changes. The state given is the one BEFORE the fetch advance, so PC is the
instruction address. -/
def State.raise (s : State) (cause : Cause) (word info : Option Word) : State :=
  { s with status := .faulted { cause := cause, addr := s.pc, word := word, info := info } }

/-- The numeric code of a cause (R281). -/
def Cause.code : Cause → Nat
  | .unknownOpcode => 1
  | .stackOverflow => 2
  | .stackUnderflow => 3
  | .fetchOutOfBounds => 4
  | .misalignedFetch => 5
  | .memoryOutOfBounds => 6
  | .keyIndexOutOfRange => 7

/-! ### The inputs of a step (R11, R140). What the host has not fixed is a free value. -/

/-- K, the snapshot of this step (R49). -/
def State.keys (s : State) : Keypad := s.inp.keys.getD (Config.keypad s.clock)

/-- What `draw_random()` returns in this step (R17). -/
def State.rand (s : State) : Byte := s.inp.rand.getD (Config.randomByte s.clock)

/-- Which pressed key `draw_key` takes in this step (R17). -/
def State.pick (s : State) : Nat := s.inp.pick.getD (Config.keyPick s.clock)

/-- How many ticks come before this step (R149). -/
def State.ticks (s : State) : Nat := s.inp.ticks.getD (Config.ticksBefore s.clock)

/-- The step has consumed its inputs: those of the next step are free again until the host fixes them (R49: each step
reads one snapshot). -/
def State.consume (s : State) : State := { s with inp := Inputs.free, clock := s.clock + 1 }

end Sys2Proof.Machine
end

