-- ==== Sys2Proof/Machine/Operands.lean ====
section
/-! DEFINITION. The operand forms (R103, R246): how an address, a register list, a keypad slot, a coordinate and a
data range are formed from the fields and the state. -/

namespace Sys2Proof.Machine

/-- zext_16 of an address field (R103). -/
def zextAddr (nnn : Addr12) : Word := nnn.setWidth 16

/-- zext_16 of a byte (R13). -/
def zextByte (b : Byte) : Word := b.setWidth 16

/-- The data address I + k, a natural number without a 16-bit wrap (R75). -/
def State.dataAddr (s : State) (k : Nat) : Nat := s.i.toNat + k

/-- V0 to V[x] in order: what `store` moves (R224). -/
def State.regsUpTo (s : State) (x : Reg) : List Byte :=
  (List.range (x.toNat + 1)).map (fun k => s.reg (BitVec.ofNat 4 k))

/-- V0 to V[x] loaded from I onwards: what `load` moves (R225). Registers above x keep their values. -/
def State.loadRegs (s : State) (x : Reg) : State :=
  (List.range (x.toNat + 1)).foldl (fun t k => t.setReg (BitVec.ofNat 4 k) (s.mem.read (s.dataAddr k))) s

/-- The three decimal digits of a byte: hundreds, tens, ones (R223). -/
def bcdDigits (v : Byte) : List Byte :=
  [BitVec.ofNat 8 (v.toNat / 100), BitVec.ofNat 8 (v.toNat / 10 % 10), BitVec.ofNat 8 (v.toNat % 10)]

/-- Of `n` bytes from I on, one lies above 0xFFF (R75, R226). No byte, no illegal address (R262, D23). -/
def State.rangeIllegal (s : State) (n : Nat) : Bool := decide (0 < n ∧ 0xFFF < s.i.toNat + n - 1)

/-- The first illegal address of such a range: max(I, 0x1000) (R75, R226). -/
def State.firstIllegal (s : State) : Word := if s.i.toNat ≤ 0x1000 then 0x1000#16 else s.i

/-- An access to `n` bytes from I on, checked before the first write (R75, R226): the given state if all are legal,
else the fault, with the fetched word `w` in the record. -/
def State.accessing (s : State) (n : Nat) (w : Word) (done : State) : State :=
  if s.rangeIllegal n then s.raise .memoryOutOfBounds (some w) (some s.firstIllegal) else done

/-- `slot(v)`: the keypad slot of a key value, none above 15 (R246). -/
def slot (v : Byte) : Option Slot := if h : v.toNat < 16 then some (Config.keymap ⟨v.toNat, h⟩) else none

/-- KEYMAP⁻¹(s) as a register value (R245). -/
def keyOfSlot (k : Slot) : Byte := BitVec.ofNat 8 (Config.keymap.symm k).val

/-- P, the pressed slots of a snapshot, lowest first (R245). -/
def pressedSlots (keys : Keypad) : List Slot := (List.finRange 16).filter (fun k => keys[k])

/-- `draw_key(P)`: the element of P that the pick selects, none when P is empty (R17, R245). -/
def drawKey (pick : Nat) (pressed : List Slot) : Option Slot := pressed[pick % pressed.length]?

/-- The start column of a sprite: V[x] mod 64 (R262). -/
def State.startX (s : State) (x : Reg) : Nat := (s.reg x).toNat % Config.fbWidth

/-- The start row of a sprite: V[y] mod 32 (R262). -/
def State.startY (s : State) (y : Reg) : Nat := (s.reg y).toNat % Config.fbHeight

/-- The rows of a sprite: the n bytes from I on (R261, R262). -/
def State.spriteRows (s : State) (n : Nibble) : List Byte := s.mem.readBytes s.i.toNat n.toNat

end Sys2Proof.Machine
end

