-- ==== Sys2Proof/Machine/Flags.lean ====
section
/-! DEFINITION. The flag computations (R34, R192): every flag is one bit, written to VF as 0 or 1 and written last
(R18, R35). -/

namespace Sys2Proof.Machine

/-- A flag as VF holds it: 0 or 1 (R35). -/
def flagByte (flag : Bool) : Byte := if flag then 1#8 else 0#8

/-- The carry of an addition: the unsigned sum exceeds 255 (R192, R197). -/
def carryFlag (a b : Byte) : Bool := decide (255 < a.toNat + b.toNat)

/-- The flag of the subtraction a - b: the strict comparison a > b (R192, R198, R199; 90_conflicts.md C2). -/
def greaterFlag (a b : Byte) : Bool := decide (b.toNat < a.toNat)

/-- The bit a right shift moves out (R200). -/
def shiftedOutRight (a : Byte) : Bool := a.getLsbD 0

/-- The bit a left shift moves out (R201). -/
def shiftedOutLeft (a : Byte) : Bool := a.getLsbD 7

/-- A result to V[x], then a flag to VF (R18, R35): with x = 0xF the flag is what remains (R203). -/
def State.setRegFlag (s : State) (x : Reg) (result : Byte) (flag : Bool) : State :=
  (s.setReg x result).setReg VF (flagByte flag)

end Sys2Proof.Machine
end

