-- ==== Sys2Proof/Machine/ControlFlow.lean ====
section
/-! DEFINITION. Control flow: jump, jump-with-offset, call, return and the four operand skips
(spec/41_control_flow.md), and executing an Unknown word (spec/60_exceptions.md R282). A meaning takes the state with
PC = addr, advances PC first (R142), and, where it faults, keeps the state it was given (R290). No transfer checks its
target (R178). -/

namespace Sys2Proof.Machine

/-- The outcome of every meaning: the spec gives each instruction a next state on every path. -/
abbrev Result := Host.Outcome State Fault Refusal

/-- `jump` (R170): PC <- zext_16(nnn). -/
def execJump (nnn : Addr12) (s : State) : Result := .next (s.advance.setPc (zextAddr nnn))

/-- `jump-with-offset` (R171): PC <- nnn + V0 mod 2^16, not masked to 12 bits (D25). -/
def execJumpWithOffset (nnn : Addr12) (s : State) : Result :=
  .next (s.advance.setPc (zextAddr nnn + zextByte (s.reg 0x0#4)))

/-- `call` (R172): StackOverflow at depth 16, else push PC (which is addr + 2) and jump. -/
def execCall (nnn : Addr12) (s : State) : Result :=
  .next (if s.stack.length < Config.stackDepth then (s.advance.push s.advance.pc).setPc (zextAddr nnn)
    else s.raise .stackOverflow (some (encode (.call nnn))) none)

/-- `return` (R173): StackUnderflow at depth 0, else PC <- pop(S). -/
def execRet (s : State) : Result :=
  .next (match s.stack with
    | [] => s.raise .stackUnderflow (some (encode .ret)) none
    | target :: rest => (s.advance.setStack rest).setPc target)

/-- `skip-if-x-eq-nn` (R174). -/
def execSkipEqImm (x : Reg) (nn : Byte) (s : State) : Result := .next (s.advance.skipIf (decide (s.reg x = nn)))

/-- `skip-if-x-ne-nn` (R175). -/
def execSkipNeImm (x : Reg) (nn : Byte) (s : State) : Result := .next (s.advance.skipIf (decide (s.reg x ≠ nn)))

/-- `skip-if-x-eq-y` (R176); `n` is ignored (R114, D1). -/
def execSkipEqReg (x y : Reg) (_n : Nibble) (s : State) : Result :=
  .next (s.advance.skipIf (decide (s.reg x = s.reg y)))

/-- `skip-if-x-ne-y` (R177); `n` is ignored (R114, D1). -/
def execSkipNeReg (x y : Reg) (_n : Nibble) (s : State) : Result :=
  .next (s.advance.skipIf (decide (s.reg x ≠ s.reg y)))

/-- `Unknown` (R282): UnknownOpcode with the fetched word and the instruction address. Called by the engine step, not
by `exec`: Unknown is no row of the opcode table. -/
def execUnknown (w : Word) (s : State) : Result := .next (s.raise .unknownOpcode (some w) none)

end Sys2Proof.Machine
end

