-- ==== Sys2Proof/Machine/Alu.lean ====
section
/-! DEFINITION. Register and ALU operations (spec/42_register_alu.md). Operands are read from the state before the
instruction, the result goes to V[x], and a flag goes to VF last (R18, R203). Nothing here touches memory or faults. -/

namespace Sys2Proof.Machine

/-- `set-reg` (R190). -/
def execSetReg (x : Reg) (nn : Byte) (s : State) : Result := .next (s.advance.setReg x nn)

/-- `add-to-reg` (R191): mod 256, the carry discarded. -/
def execAddToReg (x : Reg) (nn : Byte) (s : State) : Result := .next (s.advance.setReg x (s.reg x + nn))

/-- `set` (R193). -/
def execSet (x y : Reg) (s : State) : Result := .next (s.advance.setReg x (s.reg y))

/-- `or` (R194), no flag. -/
def execOr (x y : Reg) (s : State) : Result := .next (s.advance.setReg x (s.reg x ||| s.reg y))

/-- `and` (R195), no flag. -/
def execAnd (x y : Reg) (s : State) : Result := .next (s.advance.setReg x (s.reg x &&& s.reg y))

/-- `xor` (R196), no flag. -/
def execXor (x y : Reg) (s : State) : Result := .next (s.advance.setReg x (s.reg x ^^^ s.reg y))

/-- `add` (R197): VF is the carry. -/
def execAdd (x y : Reg) (s : State) : Result :=
  .next (s.advance.setRegFlag x (s.reg x + s.reg y) (carryFlag (s.reg x) (s.reg y)))

/-- `subtract` (R198): V[x] - V[y]; VF is V[x] > V[y]. -/
def execSubtract (x y : Reg) (s : State) : Result :=
  .next (s.advance.setRegFlag x (s.reg x - s.reg y) (greaterFlag (s.reg x) (s.reg y)))

/-- `subtract-reverse` (R199): V[y] - V[x]; VF is V[y] > V[x]. -/
def execSubtractReverse (x y : Reg) (s : State) : Result :=
  .next (s.advance.setRegFlag x (s.reg y - s.reg x) (greaterFlag (s.reg y) (s.reg x)))

/-- `shift-right` (R200): V[x] in place; `y` is ignored (R114). -/
def execShiftRight (x _y : Reg) (s : State) : Result :=
  .next (s.advance.setRegFlag x (s.reg x >>> 1) (shiftedOutRight (s.reg x)))

/-- `shift-left` (R201): V[x] in place; `y` is ignored (R114). -/
def execShiftLeft (x _y : Reg) (s : State) : Result :=
  .next (s.advance.setRegFlag x (s.reg x <<< 1) (shiftedOutLeft (s.reg x)))

/-- `random` (R202): the step's draw, masked by nn. -/
def execRandom (x : Reg) (nn : Byte) (s : State) : Result := .next (s.advance.setReg x (s.rand &&& nn))

end Sys2Proof.Machine
end

