-- ==== Sys2Proof/Machine/IndexMemory.lean ====
section
/-! DEFINITION. Index register and memory operations (spec/43_index_memory.md). The three that access memory check
their whole range before any write and never change I (R226). -/

namespace Sys2Proof.Machine

/-- `set-index` (R220). -/
def execSetIndex (nnn : Addr12) (s : State) : Result := .next (s.advance.setI (zextAddr nnn))

/-- `add-to-index` (R221): mod 2^16, VF not written. -/
def execAddToIndex (x : Reg) (s : State) : Result := .next (s.advance.setI (s.i + zextByte (s.reg x)))

/-- `get-font-char` (R222): I <- V[x], the direct convention (C3). -/
def execGetFontChar (x : Reg) (s : State) : Result := .next (s.advance.setI (zextByte (s.reg x)))

/-- `bcd-conversion` (R223). -/
def execBcdConversion (x : Reg) (s : State) : Result :=
  .next (s.accessing 3 (encode (.bcdConversion x))
    (s.advance.setMem (s.mem.writeBytes s.i.toNat (bcdDigits (s.reg x)))))

/-- `store` (R224): V0 to V[x] to memory from I on; I unchanged (D4). -/
def execStore (x : Reg) (s : State) : Result :=
  .next (s.accessing (x.toNat + 1) (encode (.store x))
    (s.advance.setMem (s.mem.writeBytes s.i.toNat (s.regsUpTo x))))

/-- `load` (R225): memory from I on to V0 to V[x]; I unchanged (D4). -/
def execLoad (x : Reg) (s : State) : Result :=
  .next (s.accessing (x.toNat + 1) (encode (.load x)) (s.advance.loadRegs x))

end Sys2Proof.Machine
end

