-- ==== Sys2Proof/Machine/TimersKeys.lean ====
section
/-! DEFINITION. Timer and keypad operations (spec/44_timers_keys.md). -/

namespace Sys2Proof.Machine

/-- `set-delay-timer` (R240). -/
def execSetDelayTimer (x : Reg) (s : State) : Result := .next (s.advance.setDt (s.reg x))

/-- `set-sound-timer` (R241). -/
def execSetSoundTimer (x : Reg) (s : State) : Result := .next (s.advance.setSt (s.reg x))

/-- `read-delay-timer` (R242). -/
def execReadDelayTimer (x : Reg) (s : State) : Result := .next (s.advance.setReg x s.dt)

/-- The two key skips (R243, R244): the key value's slot, KeyIndexOutOfRange above 15 with the value as info, else a
skip if the slot's flag is the wanted one. -/
def State.keySkip (s : State) (x : Reg) (w : Word) (wanted : Bool) : State :=
  match slot (s.reg x) with
  | none => s.raise .keyIndexOutOfRange (some w) (some (zextByte (s.reg x)))
  | some k => s.advance.skipIf (s.keys[k] == wanted)

/-- `skip-if-key-pressed` (R243). -/
def execSkipKeyPressed (x : Reg) (s : State) : Result := .next (s.keySkip x (encode (.skipKeyPressed x)) true)

/-- `skip-if-key-not-pressed` (R244). -/
def execSkipKeyNotPressed (x : Reg) (s : State) : Result := .next (s.keySkip x (encode (.skipKeyNotPressed x)) false)

/-- `wait-for-keypress` (R245): with no key pressed PC goes back by 2, so the same instruction runs again; else V[x]
gets the key value of a pressed slot. -/
def execWaitForKeypress (x : Reg) (s : State) : Result :=
  .next (match drawKey s.pick (pressedSlots s.keys) with
    | none => s.advance.setPc (s.advance.pc - 2#16)
    | some k => s.advance.setReg x (keyOfSlot k))

end Sys2Proof.Machine
end

