-- ==== Sys2Proof/Machine/Display.lean ====
section
/-! DEFINITION. Display operations (spec/45_display.md). -/

namespace Sys2Proof.Machine

/-- What the drawing loop carries: the framebuffer and whether a pixel went from on to off (R262). -/
structure Canvas where
  fb : Framebuffer
  hit : Bool
  deriving DecidableEq, Repr

/-- `clear-screen` (R260). -/
def execClearScreen (s : State) : Result := .next (s.advance.setFb Framebuffer.blank)

/-- The body of the loop of R262 for bit `b` of a row at screen row `py`: a 1 bit on the grid toggles its pixel, and
a pixel that was on counts as a collision. Bits go most significant first (R261), and a place off the grid is
clipped. -/
def drawBit (x0 py : Nat) (row : Byte) (c : Canvas) (b : Nat) : Canvas :=
  if x0 + b < Config.fbWidth ∧ py < Config.fbHeight ∧ row.getLsbD (7 - b) = true then
    { fb := c.fb.toggle (x0 + b) py, hit := c.hit || c.fb.pixel (x0 + b) py }
  else c

/-- One sprite row: its eight bits (R262). -/
def drawRow (x0 py : Nat) (row : Byte) (c : Canvas) : Canvas := (List.range 8).foldl (drawBit x0 py row) c

/-- The rows of a sprite, the first at screen row `py` (R262). -/
def drawRows (x0 : Nat) : Nat → List Byte → Canvas → Canvas
  | _, [], c => c
  | py, row :: rest, c => drawRows x0 (py + 1) rest (drawRow x0 py row c)

/-- The whole loop of R262 from a given framebuffer, with no collision yet. -/
def drawSprite (fb : Framebuffer) (x0 y0 : Nat) (rows : List Byte) : Canvas :=
  drawRows x0 y0 rows { fb := fb, hit := false }

/-- `draw` (R262): the coordinates are read before VF is written, and VF, the collision, is written last. All n
addresses are checked, those of clipped rows too (D24); n = 0 reads and draws nothing (D23). -/
def execDraw (x y : Reg) (n : Nibble) (s : State) : Result :=
  .next (s.accessing n.toNat (encode (.draw x y n))
    ((s.advance.setFb (drawSprite s.fb (s.startX x) (s.startY y) (s.spriteRows n)).fb).setReg VF
      (flagByte (drawSprite s.fb (s.startX x) (s.startY y) (s.spriteRows n)).hit)))

end Sys2Proof.Machine
end

