-- ==== Sys2Proof/Machine/Dispatch.lean ====
section
/-! DEFINITION. Execute dispatches on the decoded kind, one arm per kind (R144, R115), in the order of
spec/opcode_table.json. Each arm is one direct call of the instruction's meaning. -/

namespace Sys2Proof.Machine

def exec (i : Instr) (s : State) : Host.Outcome State Fault Refusal :=
  match i with
  | .clearScreen => Sys2Proof.Machine.execClearScreen s
  | .ret => Sys2Proof.Machine.execRet s
  | .jump nnn => Sys2Proof.Machine.execJump nnn s
  | .call nnn => Sys2Proof.Machine.execCall nnn s
  | .skipEqImm x nn => Sys2Proof.Machine.execSkipEqImm x nn s
  | .skipNeImm x nn => Sys2Proof.Machine.execSkipNeImm x nn s
  | .skipEqReg x y n => Sys2Proof.Machine.execSkipEqReg x y n s
  | .setReg x nn => Sys2Proof.Machine.execSetReg x nn s
  | .addToReg x nn => Sys2Proof.Machine.execAddToReg x nn s
  | .set x y => Sys2Proof.Machine.execSet x y s
  | .or x y => Sys2Proof.Machine.execOr x y s
  | .and x y => Sys2Proof.Machine.execAnd x y s
  | .xor x y => Sys2Proof.Machine.execXor x y s
  | .add x y => Sys2Proof.Machine.execAdd x y s
  | .subtract x y => Sys2Proof.Machine.execSubtract x y s
  | .shiftRight x y => Sys2Proof.Machine.execShiftRight x y s
  | .subtractReverse x y => Sys2Proof.Machine.execSubtractReverse x y s
  | .shiftLeft x y => Sys2Proof.Machine.execShiftLeft x y s
  | .skipNeReg x y n => Sys2Proof.Machine.execSkipNeReg x y n s
  | .setIndex nnn => Sys2Proof.Machine.execSetIndex nnn s
  | .jumpWithOffset nnn => Sys2Proof.Machine.execJumpWithOffset nnn s
  | .random x nn => Sys2Proof.Machine.execRandom x nn s
  | .draw x y n => Sys2Proof.Machine.execDraw x y n s
  | .skipKeyPressed x => Sys2Proof.Machine.execSkipKeyPressed x s
  | .skipKeyNotPressed x => Sys2Proof.Machine.execSkipKeyNotPressed x s
  | .readDelayTimer x => Sys2Proof.Machine.execReadDelayTimer x s
  | .waitForKeypress x => Sys2Proof.Machine.execWaitForKeypress x s
  | .setDelayTimer x => Sys2Proof.Machine.execSetDelayTimer x s
  | .setSoundTimer x => Sys2Proof.Machine.execSetSoundTimer x s
  | .addToIndex x => Sys2Proof.Machine.execAddToIndex x s
  | .getFontChar x => Sys2Proof.Machine.execGetFontChar x s
  | .bcdConversion x => Sys2Proof.Machine.execBcdConversion x s
  | .store x => Sys2Proof.Machine.execStore x s
  | .load x => Sys2Proof.Machine.execLoad x s

end Sys2Proof.Machine
end

