-- ==== Sys2Proof/Machine/Timers.lean ====
section
/-! DEFINITION. The timer coordinator (spec/60_exceptions.md R300 to R303): one tick, and the ticks that come before a
step (R149, R150). -/

namespace Sys2Proof.Machine

/-- One countdown: by 1 where non-zero, never below 0 (R300). -/
def countOne (t : Byte) : Byte := if t = 0#8 then 0#8 else t - 1#8

/-- One timer tick (R300): nothing once the stop flag is set, else DT and ST count down and nothing else changes.
It does not look at the status: ticks may go on after a fault (R302). -/
def State.tick (s : State) : State := if s.stop then s else (s.setDt (countOne s.dt)).setSt (countOne s.st)

/-- `k` countdowns of one timer at once: what is left is the difference, or 0 (`countMany_toNat` in Laws/Timers.lean).
Written without recursion on `k`, so that it evaluates at a timer of 0 whatever the free number of ticks is. -/
def countMany (k : Nat) (t : Byte) : Byte := if t = 0#8 then 0#8 else BitVec.ofNat 8 (t.toNat - k)

/-- `k` ticks at once; the statement `Obligations.ManyTicksAreTicksOneByOne` says that they are `k` ticks of R300 one
after the other. -/
def State.tickMany (s : State) (k : Nat) : State :=
  if s.stop then s else (s.setDt (countMany k s.dt)).setSt (countMany k s.st)

/-- The ticks that fall between the last step and this one (R149): as many as `State.ticks` says. -/
def State.elapse (s : State) : State := s.tickMany s.ticks

end Sys2Proof.Machine
end

