-- ==== Sys2Proof/Machine/Fetch.lean ====
section
/-! DEFINITION. The fetch (R70, R79, R141): its checks in their order, the word it reads, and placing a word where the
next fetch reads it. -/

namespace Sys2Proof.Machine

/-- The cause a fetch at an address raises, if any: first the window 0x200 to 0xFFE, then alignment (R141, R285). -/
def fetchFault (addr : Word) : Option Cause :=
  if addr.toNat < 0x200 ∨ 0xFFE < addr.toNat then some .fetchOutOfBounds
  else if addr.toNat % 2 = 1 then some .misalignedFetch
  else none

/-- The two bytes at PC and PC+1, the first the high one (R70). -/
def State.fetchWord (s : State) : Word := wordOfBytes (s.mem.read s.pc.toNat) (s.mem.read (s.pc.toNat + 1))

/-- The fault of a fetch (R141, R290): the record has the address and no word. -/
def State.raiseFetch (s : State) (cause : Cause) : State := s.raise cause none none

/-- A state whose next fetch is legal: as it is if it is Running with a legal PC, else made Running, with the stop
flag clear and, where the fetch at PC would fault, PC at the program's start. -/
def State.readyToFetch (s : State) : State :=
  { s with
    status := .running
    stop := false
    pc := if fetchFault s.pc = none then s.pc else BitVec.ofNat 16 Config.progStart }

/-- A word put at PC and PC+1 in the hardware's byte order (R70). -/
def State.placeAtPc (s : State) (w : Word) : State :=
  s.setMem ((s.mem.write s.pc.toNat w.hiByte).write (s.pc.toNat + 1) w.loByte)

end Sys2Proof.Machine
end

