-- ==== Sys2Proof/Machine/Step.lean ====
section
/-! DEFINITION. The engine step (R140), and the step request as the host sees it: the ticks that come before it, the
step, and the consumption of its inputs. -/

namespace Sys2Proof.Machine

/-- One engine step of a Running state (R140 to R144): the fetch checks, the fetch, the decoder, the execution. -/
def engineStep (s : State) : Host.Outcome State Fault Refusal :=
  match fetchFault s.pc with
  | some cause => .next (s.raiseFetch cause)
  | none =>
    match decode s.fetchWord with
    | .unknown w => execUnknown w s
    | .named i => exec i s

/-- A completed step has consumed its inputs. -/
def settle : Host.Outcome State Fault Refusal → Host.Outcome State Fault Refusal
  | .next t => .next t.consume
  | .fault r => .fault r
  | .refused r => .refused r

/-- One step request (R140, R146, R149). Running: the ticks that fall before this step, then the engine step, atomic.
Otherwise no step is enabled. -/
def step (s : State) : Host.Outcome State Fault Refusal :=
  match s.status with
  | .running => settle (engineStep s.elapse)
  | .stopped => .refused .stopped
  | .faulted rec => .fault (.halted rec)

/-- `s` with the instruction of `nbits` bits `w` stored where the next step fetches. It leaves the inputs of the step
as they are. -/
def State.withFetchWord (s : State) (nbits w : Nat) : State := s.readyToFetch.placeAtPc (tableWord nbits w)

end Sys2Proof.Machine
end

