-- ==== Sys2Proof/Machine/Environment.lean ====
section
/-! DEFINITION. What the agents outside the engine do (R148, R151, R306): reset and load, the stop flag, the inputs of
the next step, the timer tick as an action of its own, and the outputs. `Action` and `runActions` write any finite
interleaving of steps, ticks and host actions down (R149, R82). -/

namespace Sys2Proof.Machine

/-- The answer of a load (R283, R306, R320). -/
inductive LoadResult where
  | ok (s : State)
  | romTooLarge (length : Nat)
  deriving DecidableEq, Repr

/-- `load(rom)` (R320 to R323): a ROM over 3584 bytes is rejected and no state is created; else every component is at
its reset value and the ROM lies at 0x200. The old state is discarded, whatever its status. `clock` is the MODEL's
own: it goes on, so that a new run does not repeat the free values of the last one. -/
def loadRom (clock : Nat) (rom : List Byte) : LoadResult :=
  if rom.length ≤ Config.romMax then
    .ok { State.reset with mem := State.reset.mem.writeBytes Config.progStart rom, clock := clock }
  else .romTooLarge rom.length

/-- The host raises the stop flag (R311): the flag is sticky, a Running status becomes Stopped, a Faulted one stays. -/
def State.raiseStop (s : State) : State :=
  { s with
    stop := true
    status := match s.status with
      | .running => .stopped
      | .stopped => .stopped
      | .faulted rec => .faulted rec }

/-- The host fixes inputs of the next step (R151 (a), R306). -/
def State.supply (s : State) (inputs : Inputs) : State := { s with inp := inputs }

/-- The output `sound_active` (R306, D30): ST ≠ 0. No instruction reads it. -/
def State.soundActive (s : State) : Bool := decide (s.st ≠ 0#8)

/-- The atomic transitions of the agents (R148, R151, R306). -/
inductive Action where
  /-- The engine steps (R140). -/
  | step
  /-- The timer coordinator ticks (R300). -/
  | tick
  /-- The host raises the stop flag (R311). -/
  | stop
  /-- The host fixes inputs of the next step (R151). -/
  | supply (inputs : Inputs)
  /-- The host resets and loads a ROM (R320). -/
  | load (rom : List Byte)
  deriving DecidableEq, Repr

/-- One transition. A tick is not enabled once the stop flag is set (R300, R311); a rejected load creates no state
(R321). -/
def act (a : Action) (s : State) : Host.Outcome State Fault Refusal :=
  match a with
  | .step => step s
  | .tick => if s.stop then .refused .stopped else .next s.tick
  | .stop => .next s.raiseStop
  | .supply inputs => .next (s.supply inputs)
  | .load rom =>
    match loadRom s.clock rom with
    | .ok t => .next t
    | .romTooLarge n => .refused (.romTooLarge n)

/-- A finite run: the transitions one after the other, ending at the first that is not enabled (R82, R153). -/
def runActions : List Action → State → Host.Outcome State Fault Refusal
  | [], s => .next s
  | a :: rest, s =>
    match act a s with
    | .next t => runActions rest t
    | .fault r => .fault r
    | .refused r => .refused r

end Sys2Proof.Machine
end

