-- ==== Sys2Proof/Safety.lean ====
section
/-! DEFINITION. What claims are stated in: the invariant of the machine, what a transition leaves unchanged, and the
fairness premise on ticks (R149). -/

namespace Sys2Proof.Machine

/-! ### The invariant -/

/-- A return address a `call` can push (R172, R173): the address of a word after a legally fetched one. -/
def returnAddress (w : Word) : Prop := 0x202 ≤ w.toNat ∧ w.toNat ≤ 0x1000 ∧ w.toNat % 2 = 0

/-- What holds of every state a run reaches: memory in its canonical form (R47), at most 16 stack entries (R40), each
of them an address a call pushed (R173), and no Running state with the stop flag raised (R311). -/
structure State.Inv (s : State) : Prop where
  mem : s.mem.wf
  depth : s.stack.length ≤ Config.stackDepth
  returns : ∀ w ∈ s.stack, returnAddress w
  stopped : s.stop = true → s.status ≠ .running

/-- A state in which the next step can run (R140, R141): Running, PC even and in the fetch window. -/
def State.ready (s : State) : Prop := s.status = .running ∧ fetchFault s.pc = none

/-! ### What a transition leaves unchanged -/

/-- Every general register but those listed keeps its value. -/
def RegsKept (except : List Reg) (s t : State) : Prop := ∀ r, r ∉ except → t.reg r = s.reg r

/-- Every byte of memory reads as before. -/
def MemKept (s t : State) : Prop := ∀ a, t.mem.read a = s.mem.read a

/-- Every byte of memory outside the `n` bytes from `a` on reads as before. -/
def MemKeptOutside (a n : Nat) (s t : State) : Prop := ∀ b, b < a ∨ a + n ≤ b → t.mem.read b = s.mem.read b

/-- I is unchanged. -/
def IndexKept (s t : State) : Prop := t.i = s.i

/-- The return stack is unchanged. -/
def StackKept (s t : State) : Prop := t.stack = s.stack

/-- DT and ST are unchanged. -/
def TimersKept (s t : State) : Prop := t.dt = s.dt ∧ t.st = s.st

/-- Every pixel is unchanged. -/
def ScreenKept (s t : State) : Prop := t.fb = s.fb

/-- The status, the stop flag and the model's own fields are unchanged. -/
def ControlKept (s t : State) : Prop := t.status = s.status ∧ t.stop = s.stop ∧ t.inp = s.inp ∧ t.clock = s.clock

/-- Everything but the general registers and PC is unchanged. -/
def AllButRegsKept (s t : State) : Prop :=
  MemKept s t ∧ IndexKept s t ∧ StackKept s t ∧ TimersKept s t ∧ ScreenKept s t ∧ ControlKept s t

/-- Everything but PC is unchanged. -/
def AllButPcKept (s t : State) : Prop := RegsKept [] s t ∧ AllButRegsKept s t

/-- Everything but PC and I is unchanged. -/
def AllButPcIndexKept (s t : State) : Prop :=
  RegsKept [] s t ∧ MemKept s t ∧ StackKept s t ∧ TimersKept s t ∧ ScreenKept s t ∧ ControlKept s t

/-- Everything but PC and the stack is unchanged. -/
def AllButPcStackKept (s t : State) : Prop :=
  RegsKept [] s t ∧ MemKept s t ∧ IndexKept s t ∧ TimersKept s t ∧ ScreenKept s t ∧ ControlKept s t

/-- Everything but PC and memory is unchanged. -/
def AllButPcMemKept (s t : State) : Prop :=
  RegsKept [] s t ∧ IndexKept s t ∧ StackKept s t ∧ TimersKept s t ∧ ScreenKept s t ∧ ControlKept s t

/-- Everything but the listed registers, PC and the screen is unchanged. -/
def AllButPcScreenRegsKept (regs : List Reg) (s t : State) : Prop :=
  RegsKept regs s t ∧ MemKept s t ∧ IndexKept s t ∧ StackKept s t ∧ TimersKept s t ∧ ControlKept s t

/-- An instruction that writes only the listed registers and leaves PC = addr + 2 (R38). -/
def WritesOnlyRegs (regs : List Reg) (s t : State) : Prop :=
  t.pc = s.pc + 2#16 ∧ RegsKept regs s t ∧ AllButRegsKept s t

/-- The faulting outcome (R290): the state before the step, except the status. -/
def FaultsWith (cause : Cause) (word info : Option Word) (s t : State) : Prop :=
  t = { s with status := .faulted { cause := cause, addr := s.pc, word := word, info := info } }

/-- MemoryOutOfBounds for a range that starts at I: the record has the fetched word and max(I, 0x1000) (R75, R226,
R281). -/
def FaultsOutOfBounds (w : Word) (s t : State) : Prop :=
  ∃ a : Word, a.toNat = max s.i.toNat 0x1000 ∧ FaultsWith .memoryOutOfBounds (some w) (some a) s t

/-! ### Instructions by what the spec lists for them -/

/-- A row of the opcode map (R112): every word that agrees with `row` under `mask` decodes to the instruction that `f`
reads from its fields. -/
def DecodesAs (mask row : Word) (f : Word → Instr) : Prop := ∀ w : Word, w &&& mask = row → decode w = .named (f w)

end Sys2Proof.Machine

namespace Sys2Proof

open Sys2Proof.Machine

/-- R32: whether an instruction may write the general register `r`. -/
def Instr.mayWriteReg (i : Instr) (r : Reg) : Bool :=
  match i with
  | .setReg x _ | .addToReg x _ | .set x _ | .or x _ | .and x _ | .xor x _ => decide (r = x)
  | .add x _ | .subtract x _ | .subtractReverse x _ | .shiftRight x _ | .shiftLeft x _ =>
    decide (r = x) || decide (r = VF)
  | .random x _ | .readDelayTimer x | .waitForKeypress x => decide (r = x)
  | .load x => decide (r.toNat ≤ x.toNat)
  | .draw _ _ _ => decide (r = VF)
  | .clearScreen | .ret | .jump _ | .call _ | .skipEqImm _ _ | .skipNeImm _ _ | .skipEqReg _ _ _ => false
  | .skipNeReg _ _ _ | .setIndex _ | .jumpWithOffset _ | .skipKeyPressed _ | .skipKeyNotPressed _ => false
  | .setDelayTimer _ | .setSoundTimer _ | .addToIndex _ | .getFontChar _ | .bcdConversion _ | .store _ => false

/-- R281, R285: the one cause an instruction can raise at execute, if any. -/
def Instr.mayRaise : Instr → Option Cause
  | .call _ => some .stackOverflow
  | .ret => some .stackUnderflow
  | .draw _ _ _ | .bcdConversion _ | .store _ | .load _ => some .memoryOutOfBounds
  | .skipKeyPressed _ | .skipKeyNotPressed _ => some .keyIndexOutOfRange
  | .clearScreen | .jump _ | .skipEqImm _ _ | .skipNeImm _ _ | .skipEqReg _ _ _ | .setReg _ _ => none
  | .addToReg _ _ | .set _ _ | .or _ _ | .and _ _ | .xor _ _ | .add _ _ | .subtract _ _ => none
  | .shiftRight _ _ | .subtractReverse _ _ | .shiftLeft _ _ | .skipNeReg _ _ _ | .setIndex _ => none
  | .jumpWithOffset _ | .random _ _ | .readDelayTimer _ | .waitForKeypress _ | .setDelayTimer _ => none
  | .setSoundTimer _ | .addToIndex _ | .getFontChar _ => none

/-- R49, R17: whether an instruction reads an input of the step (the snapshot, the random byte or the key choice). -/
def Instr.readsInput : Instr → Bool
  | .random _ _ | .skipKeyPressed _ | .skipKeyNotPressed _ | .waitForKeypress _ => true
  | .clearScreen | .ret | .jump _ | .call _ | .skipEqImm _ _ | .skipNeImm _ _ | .skipEqReg _ _ _ => false
  | .setReg _ _ | .addToReg _ _ | .set _ _ | .or _ _ | .and _ _ | .xor _ _ | .add _ _ | .subtract _ _ => false
  | .shiftRight _ _ | .subtractReverse _ _ | .shiftLeft _ _ | .skipNeReg _ _ _ | .setIndex _ => false
  | .jumpWithOffset _ | .draw _ _ _ | .readDelayTimer _ | .setDelayTimer _ | .setSoundTimer _ => false
  | .addToIndex _ | .getFontChar _ | .bcdConversion _ | .store _ | .load _ => false

end Sys2Proof

namespace Sys2Proof.Machine

/-! ### Sprites -/

/-- The sprite that starts at column `x0` and row `y0` has a 1 bit at column `x` and row `y`: row `y - y0` of it, bit
`7 - (x - x0)`, most significant first (R261). -/
def spriteBit (x0 y0 : Nat) (rows : List Byte) (x y : Nat) : Bool :=
  decide (x0 ≤ x ∧ x < x0 + 8 ∧ y0 ≤ y ∧ y < y0 + rows.length) &&
    (rows.getD (y - y0) 0#8).getLsbD (7 - (x - x0))

/-- The same for the sprite of `draw x y n` in a state: its rows are the bytes from I on, its start is
(V[x] mod 64, V[y] mod 32) (R262). -/
def State.spriteAt (s : State) (vx vy : Reg) (n : Nibble) (x y : Nat) : Bool :=
  decide ((s.reg vx).toNat % 64 ≤ x ∧ x < (s.reg vx).toNat % 64 + 8 ∧
      (s.reg vy).toNat % 32 ≤ y ∧ y < (s.reg vy).toNat % 32 + n.toNat) &&
    (s.mem.read (s.i.toNat + (y - (s.reg vy).toNat % 32))).getLsbD (7 - (x - (s.reg vx).toNat % 64))

/-! ### Runs -/

/-- A run of `k` step requests from `s`, none of which is refused or met by a halted machine. -/
def RunsTo : Nat → State → State → Prop
  | 0, s, t => t = s
  | k + 1, s, t => ∃ u, step s = .next u ∧ RunsTo k u t

/-- Weak fairness on ticks (R149): whatever the step, some later step has a tick before it. A claim that a timer
reaches 0 takes `FairSchedule Config.ticksBefore` as a premise. -/
def FairSchedule (ticks : Nat → Nat) : Prop := ∀ n, ∃ m, n ≤ m ∧ 0 < ticks m

end Sys2Proof.Machine
end

