-- ==== Sys2Proof/Certificates/Slice0/Obligations.lean ====
section
/-! DEFINITION. The statements for the provers. Each one's docstring names the rules of spec/ it formalises. A
statement about an instruction has as its conclusion that `exec` answers a next state, with what the rule says of it
and what it leaves unchanged; the terms it is stated in stand in Sys2Proof/Safety.lean. -/

open Sys2Proof Sys2Proof.Machine

/-! ### Encoding and decoding -/

/-- R104, R112: decoding the word of an instruction gives the instruction back, with every operand at every value. -/
def Obligations.DecodeOfEncodeIsTheInstruction : Prop :=
  ∀ i : Instr, i.wellFormed = true → decode (encode i) = .named i

/-- R104, R112, R114: an instruction keeps every bit of its word, the ignored ones too. -/
def Obligations.EncodeOfDecodedIsTheWord : Prop :=
  ∀ (w : Word) (i : Instr), decode w = .named i → encode i = w

/-- R113: the words that decode to Unknown are exactly the listed ones, Unknown carries the word, and executing one
raises UnknownOpcode with the word and the instruction address. -/
def Obligations.UnknownIsExactlyTheUnnamedWords : Prop :=
  (∀ w : Word, decode w = .unknown w ↔
    (w.toNat / 4096 = 0x0 ∧ w.toNat ≠ 0x00E0 ∧ w.toNat ≠ 0x00EE) ∨
    (w.toNat / 4096 = 0x8 ∧ w.toNat % 16 ∈ [0x8, 0x9, 0xA, 0xB, 0xC, 0xD, 0xF]) ∨
    (w.toNat / 4096 = 0xE ∧ w.toNat % 256 ∉ [0x9E, 0xA1]) ∨
    (w.toNat / 4096 = 0xF ∧ w.toNat % 256 ∉ [0x07, 0x0A, 0x15, 0x18, 0x1E, 0x29, 0x33, 0x55, 0x65])) ∧
  (∀ w u : Word, decode w = .unknown u → u = w) ∧
  ∀ (w : Word) (s : State), ∃ t, execUnknown w s = .next t ∧ FaultsWith .unknownOpcode (some w) none s t

/-- R112: a word of a named kind matches the row of its instruction and no other, and an Unknown word matches none. -/
def Obligations.EveryWordMatchesAtMostOneRow : Prop :=
  (∀ (w : Word) (i : Instr), decode w = .named i → opcodeRows.filter (Word.matchesRow w) = [i.row]) ∧
  ∀ (w u : Word), decode w = .unknown u → opcodeRows.filter (Word.matchesRow w) = []

/-- R105, R112: a few words written out from the map, one or more of every family. -/
def Obligations.WordsWrittenFromTheMapDecode : Prop :=
  decode 0x00E0#16 = .named .clearScreen ∧
  decode 0xD12A#16 = .named (.draw 0x1#4 0x2#4 0xA#4) ∧
  decode 0x1234#16 = .named (.jump 0x234#12) ∧
  decode 0xB5FF#16 = .named (.jumpWithOffset 0x5FF#12) ∧
  decode 0x512F#16 = .named (.skipEqReg 0x1#4 0x2#4 0xF#4) ∧
  decode 0x6A2F#16 = .named (.setReg 0xA#4 0x2F#8) ∧
  decode 0x8237#16 = .named (.subtractReverse 0x2#4 0x3#4) ∧
  decode 0x840E#16 = .named (.shiftLeft 0x4#4 0x0#4) ∧
  decode 0xA300#16 = .named (.setIndex 0x300#12) ∧
  decode 0xF355#16 = .named (.store 0x3#4) ∧
  decode 0xF30A#16 = .named (.waitForKeypress 0x3#4) ∧
  decode 0xE0A1#16 = .named (.skipKeyNotPressed 0x0#4) ∧
  decode 0x8008#16 = .unknown 0x8008#16

/-- R114: instructions that differ in ignored bits alone have the same effect. -/
def Obligations.IgnoredBitsHaveNoEffect : Prop :=
  ∀ (x y y' : Reg) (n n' : Nibble) (s : State),
    exec (.skipEqReg x y n) s = exec (.skipEqReg x y n') s ∧
    exec (.skipNeReg x y n) s = exec (.skipNeReg x y n') s ∧
    exec (.shiftRight x y) s = exec (.shiftRight x y') s ∧
    exec (.shiftLeft x y) s = exec (.shiftLeft x y') s

/-! ### The step -/

/-- R140, R143, R144, R149: a Running state whose PC is even and in the fetch window, and whose word at PC decodes to
`i`, steps as `exec i` does after the ticks that fall before the step; the inputs of the step are then consumed. -/
def Obligations.StepRunsTheDecodedInstruction : Prop :=
  ∀ (s : State) (i : Instr), s.ready → i.wellFormed = true → decode s.fetchWord = .named i →
    ∃ t, exec i s.elapse = .next t ∧ step s = .next t.consume

/-- R70: the fetched word has the byte at PC as its high byte and the byte at PC+1 as its low byte. -/
def Obligations.FetchIsBigEndian : Prop :=
  ∀ s : State, s.fetchWord.toNat = 256 * (s.mem.read s.pc.toNat).toNat + (s.mem.read (s.pc.toNat + 1)).toNat ∧
    Word.hiByte s.fetchWord = s.mem.read s.pc.toNat ∧ Word.loByte s.fetchWord = s.mem.read (s.pc.toNat + 1)

/-- R141: the fetch checks, in their order: outside 0x200 to 0xFFE the step raises FetchOutOfBounds, else at an odd PC
MisalignedFetch; the record has the instruction address and no word. -/
def Obligations.FetchChecksInOrder : Prop :=
  ∀ s : State, s.status = .running →
    (s.pc.toNat < 0x200 ∨ 0xFFE < s.pc.toNat →
      ∃ t, step s = .next t.consume ∧ FaultsWith .fetchOutOfBounds none none s.elapse t) ∧
    (0x200 ≤ s.pc.toNat ∧ s.pc.toNat ≤ 0xFFE ∧ s.pc.toNat % 2 = 1 →
      ∃ t, step s = .next t.consume ∧ FaultsWith .misalignedFetch none none s.elapse t)

/-- R282: a step that fetches an Unknown word raises UnknownOpcode with the instruction address and the word. -/
def Obligations.StepOnUnknownWordFaults : Prop :=
  ∀ s : State, s.ready → (∀ i, decode s.fetchWord ≠ .named i) →
    ∃ t, step s = .next t.consume ∧ FaultsWith .unknownOpcode (some s.fetchWord) none s.elapse t

/-- R140, R146, R50: a step is enabled exactly in a Running state; a Faulted machine answers its record and a Stopped
one refuses (which answer stands for "no step" is the model's choice, log entry 3). -/
def Obligations.StepIsEnabledExactlyWhenRunning : Prop :=
  (∀ s : State, (∃ t, step s = .next t) ↔ s.status = .running) ∧
  (∀ (s : State) (rec : FaultRecord), s.status = .faulted rec → step s = .fault (.halted rec)) ∧
  ∀ s : State, s.status = .stopped → step s = .refused .stopped

/-- R290: a fault raised by an instruction leaves every part of the state as it was but the status, and its record has
the instruction address. -/
def Obligations.FaultOfAnInstructionIsPrecise : Prop :=
  ∀ (i : Instr) (s t : State) (rec : FaultRecord), s.status = .running → exec i s = .next t →
    t.status = .faulted rec → rec.addr = s.pc ∧ t = { s with status := .faulted rec }

/-- R290: a step that faults leaves every part of the state as it was after the ticks before it, but the status (the
model's own inputs are consumed as by every step, log entry 1). -/
def Obligations.FaultOfAStepIsPrecise : Prop :=
  ∀ (s t : State) (rec : FaultRecord), step s = .next t → t.status = .faulted rec →
    rec.addr = s.pc ∧ t = { s.elapse with status := .faulted rec, inp := Inputs.free, clock := s.clock + 1 }

/-- R285, R281: no kind of instruction can raise two different causes: an instruction that faults raises the one cause
of its kind, with its own word in the record, and the others raise none. -/
def Obligations.EachKindRaisesItsOneCause : Prop :=
  ∀ (i : Instr) (s t : State), s.status = .running → exec i s = .next t →
    t.status = .running ∨
    ∃ rec, t.status = .faulted rec ∧ i.mayRaise = some rec.cause ∧ rec.word = some (encode i)

/-! ### Control flow -/

/-- R170: `jump`. -/
def Obligations.JumpSetsPc : Prop :=
  DecodesAs 0xF000#16 0x1000#16 (fun w => .jump (Word.nnn w)) ∧
  ∀ (nnn : Addr12) (s : State), ∃ t, exec (.jump nnn) s = .next t ∧
    t.pc.toNat = nnn.toNat ∧ AllButPcKept s t

/-- R171: `jump-with-offset`, the sum not masked to 12 bits. -/
def Obligations.JumpWithOffsetAddsV0 : Prop :=
  DecodesAs 0xF000#16 0xB000#16 (fun w => .jumpWithOffset (Word.nnn w)) ∧
  ∀ (nnn : Addr12) (s : State), ∃ t, exec (.jumpWithOffset nnn) s = .next t ∧
    t.pc.toNat = (nnn.toNat + (s.reg 0x0#4).toNat) % 65536 ∧ AllButPcKept s t

/-- R172: `call` pushes addr + 2 and jumps, and faults with a full stack. -/
def Obligations.CallPushesAndJumpsOrOverflows : Prop :=
  DecodesAs 0xF000#16 0x2000#16 (fun w => .call (Word.nnn w)) ∧
  (∀ (nnn : Addr12) (s : State), s.stack.length < 16 → ∃ t, exec (.call nnn) s = .next t ∧
    t.pc.toNat = nnn.toNat ∧ t.stack = (s.pc + 2#16) :: s.stack ∧ AllButPcStackKept s t) ∧
  ∀ (nnn : Addr12) (s : State), 16 ≤ s.stack.length → ∃ t, exec (.call nnn) s = .next t ∧
    FaultsWith .stackOverflow (some (encode (.call nnn))) none s t

/-- R173: `return` pops into PC, and faults with an empty stack. -/
def Obligations.ReturnPopsOrUnderflows : Prop :=
  DecodesAs 0xFFFF#16 0x00EE#16 (fun _ => .ret) ∧
  (∀ (s : State) (target : Word) (rest : List Word), s.stack = target :: rest → ∃ t, exec .ret s = .next t ∧
    t.pc = target ∧ t.stack = rest ∧ AllButPcStackKept s t) ∧
  ∀ s : State, s.stack = [] → ∃ t, exec .ret s = .next t ∧ FaultsWith .stackUnderflow (some 0x00EE#16) none s t

/-- R172, R173: a `return` executed with the stack a `call` left comes back to the word after the call, with the stack
of before. -/
def Obligations.ReturnComesBackAfterCall : Prop :=
  ∀ (nnn : Addr12) (s t u : State), s.stack.length < 16 → exec (.call nnn) s = .next t → u.stack = t.stack →
    ∃ v, exec .ret u = .next v ∧ v.pc.toNat = (s.pc.toNat + 2) % 65536 ∧ v.stack = s.stack

/-- R174, R175: the two skips on an immediate. -/
def Obligations.SkipsOnImmediate : Prop :=
  DecodesAs 0xF000#16 0x3000#16 (fun w => .skipEqImm (Word.x w) (Word.nn w)) ∧
  DecodesAs 0xF000#16 0x4000#16 (fun w => .skipNeImm (Word.x w) (Word.nn w)) ∧
  ∀ (x : Reg) (nn : Byte) (s : State),
    (∃ t, exec (.skipEqImm x nn) s = .next t ∧
      t.pc = (if s.reg x = nn then s.pc + 4#16 else s.pc + 2#16) ∧ AllButPcKept s t) ∧
    (∃ t, exec (.skipNeImm x nn) s = .next t ∧
      t.pc = (if s.reg x = nn then s.pc + 2#16 else s.pc + 4#16) ∧ AllButPcKept s t)

/-- R176, R177: the two skips on a register, for every n. -/
def Obligations.SkipsOnRegister : Prop :=
  DecodesAs 0xF000#16 0x5000#16 (fun w => .skipEqReg (Word.x w) (Word.y w) (Word.n w)) ∧
  DecodesAs 0xF000#16 0x9000#16 (fun w => .skipNeReg (Word.x w) (Word.y w) (Word.n w)) ∧
  ∀ (x y : Reg) (n : Nibble) (s : State),
    (∃ t, exec (.skipEqReg x y n) s = .next t ∧
      t.pc = (if s.reg x = s.reg y then s.pc + 4#16 else s.pc + 2#16) ∧ AllButPcKept s t) ∧
    (∃ t, exec (.skipNeReg x y n) s = .next t ∧
      t.pc = (if s.reg x = s.reg y then s.pc + 2#16 else s.pc + 4#16) ∧ AllButPcKept s t)

/-! ### Registers and the ALU -/

/-- R190, R191: the two immediate forms. -/
def Obligations.ImmediateRegisterWrites : Prop :=
  DecodesAs 0xF000#16 0x6000#16 (fun w => .setReg (Word.x w) (Word.nn w)) ∧
  DecodesAs 0xF000#16 0x7000#16 (fun w => .addToReg (Word.x w) (Word.nn w)) ∧
  ∀ (x : Reg) (nn : Byte) (s : State),
    (∃ t, exec (.setReg x nn) s = .next t ∧ t.reg x = nn ∧ WritesOnlyRegs [x] s t) ∧
    (∃ t, exec (.addToReg x nn) s = .next t ∧
      (t.reg x).toNat = ((s.reg x).toNat + nn.toNat) % 256 ∧ WritesOnlyRegs [x] s t)

/-- R193, R194, R195, R196: the register forms without a flag, bit by bit. -/
def Obligations.RegisterFormsWithoutFlag : Prop :=
  DecodesAs 0xF00F#16 0x8000#16 (fun w => .set (Word.x w) (Word.y w)) ∧
  DecodesAs 0xF00F#16 0x8001#16 (fun w => .or (Word.x w) (Word.y w)) ∧
  DecodesAs 0xF00F#16 0x8002#16 (fun w => .and (Word.x w) (Word.y w)) ∧
  DecodesAs 0xF00F#16 0x8003#16 (fun w => .xor (Word.x w) (Word.y w)) ∧
  ∀ (x y : Reg) (s : State),
    (∃ t, exec (.set x y) s = .next t ∧ t.reg x = s.reg y ∧ WritesOnlyRegs [x] s t) ∧
    (∃ t, exec (.or x y) s = .next t ∧ WritesOnlyRegs [x] s t ∧
      ∀ k, (t.reg x).getLsbD k = ((s.reg x).getLsbD k || (s.reg y).getLsbD k)) ∧
    (∃ t, exec (.and x y) s = .next t ∧ WritesOnlyRegs [x] s t ∧
      ∀ k, (t.reg x).getLsbD k = ((s.reg x).getLsbD k && (s.reg y).getLsbD k)) ∧
    (∃ t, exec (.xor x y) s = .next t ∧ WritesOnlyRegs [x] s t ∧
      ∀ k, (t.reg x).getLsbD k = ((s.reg x).getLsbD k ^^ (s.reg y).getLsbD k))

/-- R197: `add`: the sum mod 256, then VF is the carry. -/
def Obligations.AddSetsSumAndCarry : Prop :=
  DecodesAs 0xF00F#16 0x8004#16 (fun w => .add (Word.x w) (Word.y w)) ∧
  ∀ (x y : Reg) (s : State), ∃ t, exec (.add x y) s = .next t ∧ WritesOnlyRegs [x, VF] s t ∧
    (x ≠ VF → (t.reg x).toNat = ((s.reg x).toNat + (s.reg y).toNat) % 256) ∧
    t.reg VF = (if (s.reg x).toNat + (s.reg y).toNat > 255 then 1#8 else 0#8)

/-- R198: `subtract`: V[x] - V[y] mod 256, then VF is V[x] > V[y], strictly. -/
def Obligations.SubtractSetsDifferenceAndFlag : Prop :=
  DecodesAs 0xF00F#16 0x8005#16 (fun w => .subtract (Word.x w) (Word.y w)) ∧
  ∀ (x y : Reg) (s : State), ∃ t, exec (.subtract x y) s = .next t ∧ WritesOnlyRegs [x, VF] s t ∧
    (x ≠ VF → (t.reg x).toNat = (256 + (s.reg x).toNat - (s.reg y).toNat) % 256) ∧
    t.reg VF = (if (s.reg x).toNat > (s.reg y).toNat then 1#8 else 0#8)

/-- R199: `subtract-reverse`: V[y] - V[x] mod 256, then VF is V[y] > V[x], strictly. -/
def Obligations.SubtractReverseSetsDifferenceAndFlag : Prop :=
  DecodesAs 0xF00F#16 0x8007#16 (fun w => .subtractReverse (Word.x w) (Word.y w)) ∧
  ∀ (x y : Reg) (s : State), ∃ t, exec (.subtractReverse x y) s = .next t ∧ WritesOnlyRegs [x, VF] s t ∧
    (x ≠ VF → (t.reg x).toNat = (256 + (s.reg y).toNat - (s.reg x).toNat) % 256) ∧
    t.reg VF = (if (s.reg y).toNat > (s.reg x).toNat then 1#8 else 0#8)

/-- R200, R201: the two shifts, in place; VF is the bit shifted out, and y is not read. -/
def Obligations.ShiftsMoveOneBitToVF : Prop :=
  DecodesAs 0xF00F#16 0x8006#16 (fun w => .shiftRight (Word.x w) (Word.y w)) ∧
  DecodesAs 0xF00F#16 0x800E#16 (fun w => .shiftLeft (Word.x w) (Word.y w)) ∧
  ∀ (x y : Reg) (s : State),
    (∃ t, exec (.shiftRight x y) s = .next t ∧ WritesOnlyRegs [x, VF] s t ∧
      (x ≠ VF → (t.reg x).toNat = (s.reg x).toNat / 2) ∧ (t.reg VF).toNat = (s.reg x).toNat % 2) ∧
    (∃ t, exec (.shiftLeft x y) s = .next t ∧ WritesOnlyRegs [x, VF] s t ∧
      (x ≠ VF → (t.reg x).toNat = (s.reg x).toNat * 2 % 256) ∧ (t.reg VF).toNat = (s.reg x).toNat / 128)

/-- R202: `random`: the step's draw masked by nn, for every byte the draw can be. -/
def Obligations.RandomMasksTheDraw : Prop :=
  DecodesAs 0xF000#16 0xC000#16 (fun w => .random (Word.x w) (Word.nn w)) ∧
  (∀ (x : Reg) (nn : Byte) (s : State), ∃ t, exec (.random x nn) s = .next t ∧ WritesOnlyRegs [x] s t ∧
    ∀ k, (t.reg x).getLsbD k = (s.rand.getLsbD k && nn.getLsbD k)) ∧
  ∀ (s : State) (d : Byte), (s.supply { s.inp with rand := some d }).rand = d

/-- R35: after an instruction with a flag outcome that did not fault, VF is 0 or 1, whatever the destination. -/
def Obligations.FlagIsZeroOrOneAfterFlagInstructions : Prop :=
  ∀ (i : Instr) (x y : Reg) (n : Nibble) (s t : State), s.status = .running →
    i ∈ [.add x y, .subtract x y, .subtractReverse x y, .shiftRight x y, .shiftLeft x y, .draw x y n] →
    exec i s = .next t → t.status = .running → t.reg VF = 0#8 ∨ t.reg VF = 1#8

/-- R32: an instruction writes no general register but those the rule lists for it. -/
def Obligations.OnlyListedRegistersAreWritten : Prop :=
  ∀ (i : Instr) (s t : State) (r : Reg), exec i s = .next t → i.mayWriteReg r = false → t.reg r = s.reg r

/-! ### The index register and memory -/

/-- R220, R221, R222: the three writes of I. -/
def Obligations.IndexWrites : Prop :=
  DecodesAs 0xF000#16 0xA000#16 (fun w => .setIndex (Word.nnn w)) ∧
  DecodesAs 0xF0FF#16 0xF01E#16 (fun w => .addToIndex (Word.x w)) ∧
  DecodesAs 0xF0FF#16 0xF029#16 (fun w => .getFontChar (Word.x w)) ∧
  (∀ (nnn : Addr12) (s : State), ∃ t, exec (.setIndex nnn) s = .next t ∧
    t.pc = s.pc + 2#16 ∧ t.i.toNat = nnn.toNat ∧ AllButPcIndexKept s t) ∧
  ∀ (x : Reg) (s : State),
    (∃ t, exec (.addToIndex x) s = .next t ∧ t.pc = s.pc + 2#16 ∧
      t.i.toNat = (s.i.toNat + (s.reg x).toNat) % 65536 ∧ AllButPcIndexKept s t) ∧
    (∃ t, exec (.getFontChar x) s = .next t ∧ t.pc = s.pc + 2#16 ∧
      t.i.toNat = (s.reg x).toNat ∧ AllButPcIndexKept s t)

/-- R223: `bcd-conversion`: the three digits at I, I+1, I+2, or MemoryOutOfBounds with nothing written. -/
def Obligations.BcdStoresThreeDigits : Prop :=
  DecodesAs 0xF0FF#16 0xF033#16 (fun w => .bcdConversion (Word.x w)) ∧
  (∀ (x : Reg) (s : State), s.i.toNat + 2 ≤ 0xFFF → ∃ t, exec (.bcdConversion x) s = .next t ∧
    t.pc = s.pc + 2#16 ∧
    (t.mem.read s.i.toNat).toNat = (s.reg x).toNat / 100 ∧
    (t.mem.read (s.i.toNat + 1)).toNat = (s.reg x).toNat / 10 % 10 ∧
    (t.mem.read (s.i.toNat + 2)).toNat = (s.reg x).toNat % 10 ∧
    MemKeptOutside s.i.toNat 3 s t ∧ AllButPcMemKept s t) ∧
  ∀ (x : Reg) (s : State), 0xFFF < s.i.toNat + 2 → ∃ t, exec (.bcdConversion x) s = .next t ∧
    FaultsOutOfBounds (encode (.bcdConversion x)) s t

/-- R224: `store`: V0 to V[x] to memory from I on, or MemoryOutOfBounds with nothing written. -/
def Obligations.StoreCopiesRegisters : Prop :=
  DecodesAs 0xF0FF#16 0xF055#16 (fun w => .store (Word.x w)) ∧
  (∀ (x : Reg) (s : State), s.i.toNat + x.toNat ≤ 0xFFF → ∃ t, exec (.store x) s = .next t ∧
    t.pc = s.pc + 2#16 ∧
    (∀ r : Reg, r.toNat ≤ x.toNat → t.mem.read (s.i.toNat + r.toNat) = s.reg r) ∧
    MemKeptOutside s.i.toNat (x.toNat + 1) s t ∧ AllButPcMemKept s t) ∧
  ∀ (x : Reg) (s : State), 0xFFF < s.i.toNat + x.toNat → ∃ t, exec (.store x) s = .next t ∧
    FaultsOutOfBounds (encode (.store x)) s t

/-- R225: `load`: memory from I on to V0 to V[x], those above unchanged, or MemoryOutOfBounds. -/
def Obligations.LoadCopiesMemory : Prop :=
  DecodesAs 0xF0FF#16 0xF065#16 (fun w => .load (Word.x w)) ∧
  (∀ (x : Reg) (s : State), s.i.toNat + x.toNat ≤ 0xFFF → ∃ t, exec (.load x) s = .next t ∧
    t.pc = s.pc + 2#16 ∧
    (∀ r : Reg, r.toNat ≤ x.toNat → t.reg r = s.mem.read (s.i.toNat + r.toNat)) ∧
    (∀ r : Reg, x.toNat < r.toNat → t.reg r = s.reg r) ∧ AllButRegsKept s t) ∧
  ∀ (x : Reg) (s : State), 0xFFF < s.i.toNat + x.toNat → ∃ t, exec (.load x) s = .next t ∧
    FaultsOutOfBounds (encode (.load x)) s t

/-- R224, R225 (the source's round trip): a `load` from where a `store` put V0 to V[x] restores them exactly, into any
register file. -/
def Obligations.LoadRestoresWhatStoreSaved : Prop :=
  ∀ (x : Reg) (s t u : State), s.i.toNat + x.toNat ≤ 0xFFF → exec (.store x) s = .next t →
    u.mem = t.mem → u.i = t.i →
    ∃ v, exec (.load x) u = .next v ∧ ∀ r : Reg, r.toNat ≤ x.toNat → v.reg r = s.reg r

/-- R72, R87: a word whose two bytes a `store` wrote is fetched as written, V0 as the high byte. -/
def Obligations.FetchSeesStoredBytes : Prop :=
  ∀ (x : Reg) (s t u : State), 1 ≤ x.toNat → s.i.toNat + x.toNat ≤ 0xFFF → exec (.store x) s = .next t →
    u.mem = t.mem → u.pc = s.i →
    u.fetchWord.toNat = 256 * (s.reg 0x0#4).toNat + (s.reg 0x1#4).toNat

/-- R74: no instruction but `bcd-conversion` and `store` changes a byte of memory. -/
def Obligations.OnlyBcdAndStoreWriteMemory : Prop :=
  ∀ (i : Instr) (s t : State), exec i s = .next t →
    (∀ x, i ≠ .bcdConversion x) → (∀ x, i ≠ .store x) → t.mem = s.mem

/-! ### Timers and the keypad -/

/-- R240, R241, R242: the three timer instructions. -/
def Obligations.TimerInstructions : Prop :=
  DecodesAs 0xF0FF#16 0xF015#16 (fun w => .setDelayTimer (Word.x w)) ∧
  DecodesAs 0xF0FF#16 0xF018#16 (fun w => .setSoundTimer (Word.x w)) ∧
  DecodesAs 0xF0FF#16 0xF007#16 (fun w => .readDelayTimer (Word.x w)) ∧
  ∀ (x : Reg) (s : State),
    (∃ t, exec (.setDelayTimer x) s = .next t ∧ t.pc = s.pc + 2#16 ∧ t.dt = s.reg x ∧ t.st = s.st ∧
      RegsKept [] s t ∧ MemKept s t ∧ IndexKept s t ∧ StackKept s t ∧ ScreenKept s t ∧ ControlKept s t) ∧
    (∃ t, exec (.setSoundTimer x) s = .next t ∧ t.pc = s.pc + 2#16 ∧ t.st = s.reg x ∧ t.dt = s.dt ∧
      RegsKept [] s t ∧ MemKept s t ∧ IndexKept s t ∧ StackKept s t ∧ ScreenKept s t ∧ ControlKept s t) ∧
    (∃ t, exec (.readDelayTimer x) s = .next t ∧ t.reg x = s.dt ∧ WritesOnlyRegs [x] s t)

/-- R243, R244, R246: the key skips map the key value to a slot by KEYMAP and test the step's snapshot. -/
def Obligations.KeySkipsTestTheSnapshot : Prop :=
  DecodesAs 0xF0FF#16 0xE09E#16 (fun w => .skipKeyPressed (Word.x w)) ∧
  DecodesAs 0xF0FF#16 0xE0A1#16 (fun w => .skipKeyNotPressed (Word.x w)) ∧
  (∀ (x : Reg) (s : State) (h : (s.reg x).toNat < 16),
    (∃ t, exec (.skipKeyPressed x) s = .next t ∧
      t.pc = (if s.keys[Config.keymap ⟨(s.reg x).toNat, h⟩] = true then s.pc + 4#16 else s.pc + 2#16) ∧
      AllButPcKept s t) ∧
    (∃ t, exec (.skipKeyNotPressed x) s = .next t ∧
      t.pc = (if s.keys[Config.keymap ⟨(s.reg x).toNat, h⟩] = true then s.pc + 2#16 else s.pc + 4#16) ∧
      AllButPcKept s t)) ∧
  ∀ (x : Reg) (s : State), 15 < (s.reg x).toNat → ∃ v : Word, v.toNat = (s.reg x).toNat ∧
    (∃ t, exec (.skipKeyPressed x) s = .next t ∧
      FaultsWith .keyIndexOutOfRange (some (encode (.skipKeyPressed x))) (some v) s t) ∧
    (∃ t, exec (.skipKeyNotPressed x) s = .next t ∧
      FaultsWith .keyIndexOutOfRange (some (encode (.skipKeyNotPressed x))) (some v) s t)

/-- R245: `wait-for-keypress`: no key pressed leaves PC at the instruction; else V[x] gets the key value of a pressed
slot, and any pressed slot can be the one. -/
def Obligations.WaitForKeypressPollsTheSnapshot : Prop :=
  DecodesAs 0xF0FF#16 0xF00A#16 (fun w => .waitForKeypress (Word.x w)) ∧
  (∀ (x : Reg) (s : State), (∀ k : Slot, s.keys[k] = false) → ∃ t, exec (.waitForKeypress x) s = .next t ∧
    t.pc = s.pc ∧ AllButPcKept s t) ∧
  (∀ (x : Reg) (s : State), (∃ k : Slot, s.keys[k] = true) → ∃ t, exec (.waitForKeypress x) s = .next t ∧
    WritesOnlyRegs [x] s t ∧ ∃ k : Slot, s.keys[k] = true ∧ (t.reg x).toNat = (Config.keymap.symm k).val) ∧
  ∀ (x : Reg) (s : State) (k : Slot), s.keys[k] = true → ∃ (p : Nat) (t : State),
    exec (.waitForKeypress x) (s.supply { s.inp with keys := some s.keys, pick := some p }) = .next t ∧
    (t.reg x).toNat = (Config.keymap.symm k).val

/-- R49: only `random` and the three key instructions read an input of the step: another one does the same whatever the
inputs are. -/
def Obligations.OtherInstructionsIgnoreTheInputs : Prop :=
  ∀ (i : Instr) (s t : State) (inputs : Inputs), i.readsInput = false → exec i s = .next t →
    exec i (s.supply inputs) = .next (t.supply inputs)

/-- R43: no instruction reads ST: what an instruction does to everything else does not depend on it. -/
def Obligations.NoInstructionReadsTheSoundTimer : Prop :=
  ∀ (i : Instr) (s t u : State) (b : Byte), exec i s = .next t → exec i (s.setSt b) = .next u →
    u.setSt 0#8 = t.setSt 0#8

/-- R300: one tick counts each timer down by 1, never below 0, and changes nothing else; none happens with the stop
flag raised. -/
def Obligations.TickCountsDown : Prop :=
  (∀ s : State, s.stop = false → s.tick.dt.toNat = s.dt.toNat - 1 ∧ s.tick.st.toNat = s.st.toNat - 1 ∧
    s.tick = { s with dt := s.tick.dt, st := s.tick.st } ∧ act .tick s = .next s.tick) ∧
  ∀ s : State, s.stop = true → s.tick = s ∧ act .tick s = .refused .stopped

/-- R149, R300: the ticks before a step are that many single ticks, one after the other. -/
def Obligations.ManyTicksAreTicksOneByOne : Prop :=
  ∀ (k : Nat) (s : State), s.tickMany k = State.tick^[k] s

/-- R42, R332: DT never rises in a step whose instruction is not `set-delay-timer`. -/
def Obligations.DelayTimerNeverRisesUnlessSet : Prop :=
  ∀ s t : State, step s = .next t → (∀ x, decode s.fetchWord ≠ .named (.setDelayTimer x)) →
    t.dt.toNat ≤ s.dt.toNat

/-! ### The display -/

/-- R260: `clear-screen` turns every pixel off and changes nothing else but PC. -/
def Obligations.ClearScreenBlanksTheScreen : Prop :=
  DecodesAs 0xFFFF#16 0x00E0#16 (fun _ => .clearScreen) ∧
  ∀ s : State, ∃ t, exec .clearScreen s = .next t ∧ t.pc = s.pc + 2#16 ∧
    (∀ x y, x < 64 → y < 32 → t.fb.pixel x y = false) ∧ AllButPcScreenRegsKept [] s t

/-- R262: `draw` flips exactly the pixels of the grid where the sprite at (V[x] mod 64, V[y] mod 32) has a 1 bit, VF
says whether one of them was on, and a row above 0xFFF faults. -/
def Obligations.DrawFlipsTheSpritePixels : Prop :=
  DecodesAs 0xF000#16 0xD000#16 (fun w => .draw (Word.x w) (Word.y w) (Word.n w)) ∧
  (∀ (x y : Reg) (n : Nibble) (s : State), n.toNat = 0 ∨ s.i.toNat + n.toNat - 1 ≤ 0xFFF →
    ∃ t, exec (.draw x y n) s = .next t ∧ t.pc = s.pc + 2#16 ∧ AllButPcScreenRegsKept [VF] s t ∧
    (∀ px py, px < 64 → py < 32 → t.fb.pixel px py = (s.fb.pixel px py ^^ s.spriteAt x y n px py)) ∧
    ((∃ px py, px < 64 ∧ py < 32 ∧ s.spriteAt x y n px py = true ∧ s.fb.pixel px py = true) → t.reg VF = 1#8) ∧
    ((∀ px py, px < 64 → py < 32 → s.spriteAt x y n px py = true → s.fb.pixel px py = false) →
      t.reg VF = 0#8)) ∧
  ∀ (x y : Reg) (n : Nibble) (s : State), 0 < n.toNat → 0xFFF < s.i.toNat + n.toNat - 1 →
    ∃ t, exec (.draw x y n) s = .next t ∧ FaultsOutOfBounds (encode (.draw x y n)) s t

/-- R262: drawing the same sprite twice at the same place restores the screen, and the second draw reports a collision
exactly if the sprite has a 1 bit on the grid that was off before. -/
def Obligations.DrawingTwiceRestoresTheScreen : Prop :=
  ∀ (x y : Reg) (n : Nibble) (s t u v : State), s.status = .running → exec (.draw x y n) s = .next t →
    t.status = .running → u.fb = t.fb → u.mem = s.mem → u.i = s.i → u.reg x = s.reg x → u.reg y = s.reg y →
    exec (.draw x y n) u = .next v → v.fb = s.fb ∧
    (v.reg VF = 1#8 ↔ ∃ px py, px < 64 ∧ py < 32 ∧ s.spriteAt x y n px py = true ∧ s.fb.pixel px py = false)

/-- R48: only `clear-screen` and `draw` write the framebuffer. -/
def Obligations.OnlyClearAndDrawWriteTheScreen : Prop :=
  ∀ (i : Instr) (s t : State), exec i s = .next t → i ≠ .clearScreen → (∀ x y n, i ≠ .draw x y n) → t.fb = s.fb

/-- R40: only `call` and `return` touch the return stack, and its depth stays within 16. -/
def Obligations.OnlyCallAndReturnTouchTheStack : Prop :=
  (∀ (i : Instr) (s t : State), exec i s = .next t → (∀ nnn, i ≠ .call nnn) → i ≠ .ret → t.stack = s.stack) ∧
  ∀ (i : Instr) (s t : State), s.stack.length ≤ 16 → exec i s = .next t → t.stack.length ≤ 16

/-! ### Reset, load, stop and the whole machine -/

/-- R323: the value of every piece of architectural state right after reset, with the launch parameters for memory. -/
def Obligations.ResetLeavesTheValuesOfTheSpec : Prop :=
  (∀ r, State.reset.reg r = 0#8) ∧ State.reset.i = 0#16 ∧ State.reset.pc = 0x200#16 ∧ State.reset.stack = [] ∧
  State.reset.dt = 0#8 ∧ State.reset.st = 0#8 ∧ (∀ x y, State.reset.fb.pixel x y = false) ∧
  State.reset.status = .running ∧ State.reset.stop = false ∧
  ∀ a, a < 0x1000 → State.reset.mem.read a =
    if a < 0x200 then
      (if h : Config.fontBase.val ≤ a ∧ a < Config.fontBase.val + 80 then
        Config.fontData ⟨a - Config.fontBase.val, by omega⟩ else Config.lowMem a)
    else 0#8

/-- R322, R320: a load of at most 3584 bytes puts the ROM at 0x200, leaves the rest of memory at its reset contents, and
resets everything else. -/
def Obligations.LoadPlacesTheRom : Prop :=
  ∀ (clock : Nat) (rom : List Byte), rom.length ≤ 3584 → ∃ t, loadRom clock rom = .ok t ∧
    (∀ k (h : k < rom.length), t.mem.read (0x200 + k) = rom[k]) ∧
    (∀ a, a < 0x200 ∨ 0x200 + rom.length ≤ a → t.mem.read a = State.reset.mem.read a) ∧
    t = { State.reset with mem := t.mem, clock := clock }

/-- R321: a load of more than 3584 bytes is rejected with the length, and no other is. -/
def Obligations.LoadRejectsExactlyTooLongRoms : Prop :=
  ∀ (clock : Nat) (rom : List Byte), loadRom clock rom = .romTooLarge rom.length ↔ 3584 < rom.length

/-- R321, R282: after a load of the empty ROM the first step raises UnknownOpcode at 0x200 with the word 0x0000. -/
def Obligations.EmptyRomFaultsAtItsFirstStep : Prop :=
  ∀ clock : Nat, ∃ t u, loadRom clock [] = .ok t ∧ step t = .next u ∧
    u.status = .faulted { cause := .unknownOpcode, addr := 0x200#16, word := some 0x0000#16, info := none }

/-- R311: raising the stop flag stops a Running machine, leaves a Faulted one Faulted, keeps the rest of the state, and
ends steps and ticks. -/
def Obligations.StopFlagEndsStepsAndTicks : Prop :=
  ∀ s : State, s.raiseStop.stop = true ∧
    (s.status = .running → s.raiseStop.status = .stopped) ∧
    (∀ rec, s.status = .faulted rec → s.raiseStop.status = .faulted rec) ∧
    s.raiseStop = { s with stop := true, status := s.raiseStop.status } ∧
    (∀ t, step s.raiseStop ≠ .next t) ∧ act .tick s.raiseStop = .refused .stopped

/-- The invariant holds at reset. -/
def Obligations.InvariantHoldsAtReset : Prop := State.reset.Inv

/-- R30, R40, R172, R173, R311: every step keeps the invariant: memory in its canonical form, at most 16 stack entries,
each of them the address of a word after a legally fetched one, and no Running state with the stop flag raised. -/
def Obligations.StepKeepsTheInvariant : Prop :=
  ∀ s t : State, s.Inv → step s = .next t → t.Inv

/-- R82, R148, R151: so does every transition of every agent: step, tick, stop, new inputs, load. -/
def Obligations.EveryTransitionKeepsTheInvariant : Prop :=
  ∀ (a : Action) (s t : State), s.Inv → act a s = .next t → t.Inv
end

