-- ==== Sys2Proof/Laws/Decode.lean ====
section
/-! SUPPORT. The fields of a word and of an encoded word, in numbers, and the rows of the opcode map read through its
masks (R101, R112). -/

namespace Sys2Proof

/-! ### The fields in numbers (R101) -/

theorem Word.op_toNat (w : Word) : (Word.op w).toNat = w.toNat / 4096 := by
  simp only [Word.op, BitVec.extractLsb'_toNat, Nat.shiftRight_eq_div_pow]; omega

theorem Word.x_toNat (w : Word) : (Word.x w).toNat = w.toNat / 256 % 16 := by
  simp only [Word.x, BitVec.extractLsb'_toNat, Nat.shiftRight_eq_div_pow]

theorem Word.y_toNat (w : Word) : (Word.y w).toNat = w.toNat / 16 % 16 := by
  simp only [Word.y, BitVec.extractLsb'_toNat, Nat.shiftRight_eq_div_pow]

theorem Word.n_toNat (w : Word) : (Word.n w).toNat = w.toNat % 16 := by
  simp only [Word.n, BitVec.extractLsb'_toNat, Nat.shiftRight_eq_div_pow]; omega

theorem Word.nn_toNat (w : Word) : (Word.nn w).toNat = w.toNat % 256 := by
  simp only [Word.nn, BitVec.extractLsb'_toNat, Nat.shiftRight_eq_div_pow]; omega

theorem Word.nnn_toNat (w : Word) : (Word.nnn w).toNat = w.toNat % 4096 := by
  simp only [Word.nnn, BitVec.extractLsb'_toNat, Nat.shiftRight_eq_div_pow]; omega

theorem layoutA_toNat (op : Nibble) (nnn : Addr12) :
    (layoutA op nnn).toNat = op.toNat * 4096 + nnn.toNat := by
  simp only [layoutA, BitVec.toNat_ofNat]; omega

theorem layoutX_toNat (op : Nibble) (x : Reg) (nn : Byte) :
    (layoutX op x nn).toNat = op.toNat * 4096 + x.toNat * 256 + nn.toNat := by
  simp only [layoutX, BitVec.toNat_ofNat]; omega

theorem layoutXY_toNat (op : Nibble) (x y : Reg) (n : Nibble) :
    (layoutXY op x y n).toNat = op.toNat * 4096 + x.toNat * 256 + y.toNat * 16 + n.toNat := by
  simp only [layoutXY, BitVec.toNat_ofNat]; omega

theorem wordOfBytes_toNat (hi lo : Byte) : (wordOfBytes hi lo).toNat = hi.toNat * 256 + lo.toNat := by
  simp only [wordOfBytes, BitVec.toNat_ofNat]; omega

theorem Word.hiByte_toNat (w : Word) : (Word.hiByte w).toNat = w.toNat / 256 := by
  simp only [Word.hiByte, BitVec.extractLsb'_toNat, Nat.shiftRight_eq_div_pow]; omega

theorem Word.loByte_toNat (w : Word) : (Word.loByte w).toNat = w.toNat % 256 := by
  simp only [Word.loByte, BitVec.extractLsb'_toNat, Nat.shiftRight_eq_div_pow]; omega

/-- A word's own bytes, put together, are the word (R70). -/
@[simp] theorem wordOfBytes_hi_lo (w : Word) : wordOfBytes (Word.hiByte w) (Word.loByte w) = w := by
  apply BitVec.eq_of_toNat_eq
  rw [wordOfBytes_toNat, Word.hiByte_toNat, Word.loByte_toNat]; omega

/-! ### The fields of an encoded word (R102) -/

theorem layoutA_op (op : Nibble) (nnn : Addr12) : Word.op (layoutA op nnn) = op := by
  apply BitVec.eq_of_toNat_eq; rw [Word.op_toNat, layoutA_toNat]; omega

theorem layoutA_nnn (op : Nibble) (nnn : Addr12) : Word.nnn (layoutA op nnn) = nnn := by
  apply BitVec.eq_of_toNat_eq; rw [Word.nnn_toNat, layoutA_toNat]; omega

theorem layoutX_op (op : Nibble) (x : Reg) (nn : Byte) : Word.op (layoutX op x nn) = op := by
  apply BitVec.eq_of_toNat_eq; rw [Word.op_toNat, layoutX_toNat]; omega

theorem layoutX_x (op : Nibble) (x : Reg) (nn : Byte) : Word.x (layoutX op x nn) = x := by
  apply BitVec.eq_of_toNat_eq; rw [Word.x_toNat, layoutX_toNat]; omega

theorem layoutX_nn (op : Nibble) (x : Reg) (nn : Byte) : Word.nn (layoutX op x nn) = nn := by
  apply BitVec.eq_of_toNat_eq; rw [Word.nn_toNat, layoutX_toNat]; omega

theorem layoutXY_op (op : Nibble) (x y : Reg) (n : Nibble) : Word.op (layoutXY op x y n) = op := by
  apply BitVec.eq_of_toNat_eq; rw [Word.op_toNat, layoutXY_toNat]; omega

theorem layoutXY_x (op : Nibble) (x y : Reg) (n : Nibble) : Word.x (layoutXY op x y n) = x := by
  apply BitVec.eq_of_toNat_eq; rw [Word.x_toNat, layoutXY_toNat]; omega

theorem layoutXY_y (op : Nibble) (x y : Reg) (n : Nibble) : Word.y (layoutXY op x y n) = y := by
  apply BitVec.eq_of_toNat_eq; rw [Word.y_toNat, layoutXY_toNat]; omega

theorem layoutXY_n (op : Nibble) (x y : Reg) (n : Nibble) : Word.n (layoutXY op x y n) = n := by
  apply BitVec.eq_of_toNat_eq; rw [Word.n_toNat, layoutXY_toNat]; omega

/-! ### A word from its fields -/

/-- A word is its op and nnn. -/
theorem Word.layoutA_fields (w : Word) : layoutA (Word.op w) (Word.nnn w) = w := by
  apply BitVec.eq_of_toNat_eq; rw [layoutA_toNat, Word.op_toNat, Word.nnn_toNat]; omega

/-- A word is its op, x and nn. -/
theorem Word.layoutX_fields (w : Word) : layoutX (Word.op w) (Word.x w) (Word.nn w) = w := by
  apply BitVec.eq_of_toNat_eq; rw [layoutX_toNat, Word.op_toNat, Word.x_toNat, Word.nn_toNat]; omega

/-- A word is its op, x, y and n. -/
theorem Word.layoutXY_fields (w : Word) : layoutXY (Word.op w) (Word.x w) (Word.y w) (Word.n w) = w := by
  apply BitVec.eq_of_toNat_eq
  rw [layoutXY_toNat, Word.op_toNat, Word.x_toNat, Word.y_toNat, Word.n_toNat]; omega

/-! ### The decoder, one lemma per op (R105, R110) -/

theorem nibble_cases (n : Nibble) :
    n = 0x0#4 ∨ n = 0x1#4 ∨ n = 0x2#4 ∨ n = 0x3#4 ∨ n = 0x4#4 ∨ n = 0x5#4 ∨ n = 0x6#4 ∨ n = 0x7#4 ∨
    n = 0x8#4 ∨ n = 0x9#4 ∨ n = 0xA#4 ∨ n = 0xB#4 ∨ n = 0xC#4 ∨ n = 0xD#4 ∨ n = 0xE#4 ∨ n = 0xF#4 := by
  revert n; decide

theorem decode_op0 {w : Word} (h : Word.op w = 0x0#4) : decode w = decodeOp0 w := by
  unfold decode; rw [h]; rfl

theorem decode_op1 {w : Word} (h : Word.op w = 0x1#4) : decode w = .named (.jump (Word.nnn w)) := by
  unfold decode; rw [h]; rfl

theorem decode_op2 {w : Word} (h : Word.op w = 0x2#4) : decode w = .named (.call (Word.nnn w)) := by
  unfold decode; rw [h]; rfl

theorem decode_op3 {w : Word} (h : Word.op w = 0x3#4) : decode w = .named (.skipEqImm (Word.x w) (Word.nn w)) := by
  unfold decode; rw [h]; rfl

theorem decode_op4 {w : Word} (h : Word.op w = 0x4#4) : decode w = .named (.skipNeImm (Word.x w) (Word.nn w)) := by
  unfold decode; rw [h]; rfl

theorem decode_op5 {w : Word} (h : Word.op w = 0x5#4) : decode w = .named (.skipEqReg (Word.x w) (Word.y w) (Word.n w)) := by
  unfold decode; rw [h]; rfl

theorem decode_op6 {w : Word} (h : Word.op w = 0x6#4) : decode w = .named (.setReg (Word.x w) (Word.nn w)) := by
  unfold decode; rw [h]; rfl

theorem decode_op7 {w : Word} (h : Word.op w = 0x7#4) : decode w = .named (.addToReg (Word.x w) (Word.nn w)) := by
  unfold decode; rw [h]; rfl

theorem decode_op8 {w : Word} (h : Word.op w = 0x8#4) : decode w = decodeOp8 w := by
  unfold decode; rw [h]; rfl

theorem decode_op9 {w : Word} (h : Word.op w = 0x9#4) : decode w = .named (.skipNeReg (Word.x w) (Word.y w) (Word.n w)) := by
  unfold decode; rw [h]; rfl

theorem decode_opA {w : Word} (h : Word.op w = 0xA#4) : decode w = .named (.setIndex (Word.nnn w)) := by
  unfold decode; rw [h]; rfl

theorem decode_opB {w : Word} (h : Word.op w = 0xB#4) : decode w = .named (.jumpWithOffset (Word.nnn w)) := by
  unfold decode; rw [h]; rfl

theorem decode_opC {w : Word} (h : Word.op w = 0xC#4) : decode w = .named (.random (Word.x w) (Word.nn w)) := by
  unfold decode; rw [h]; rfl

theorem decode_opD {w : Word} (h : Word.op w = 0xD#4) : decode w = .named (.draw (Word.x w) (Word.y w) (Word.n w)) := by
  unfold decode; rw [h]; rfl

theorem decode_opE {w : Word} (h : Word.op w = 0xE#4) : decode w = decodeOpE w := by
  unfold decode; rw [h]; rfl

theorem decode_opF {w : Word} (h : Word.op w = 0xF#4) : decode w = decodeOpF w := by
  unfold decode; rw [h]; rfl

/-! ### The masks of R112 -/

/-- A mask with ones at `op` keeps op. -/
theorem Word.op_and_mask (w : Word) {m : Word} (h : Word.op m = BitVec.allOnes 4) : Word.op (w &&& m) = Word.op w := by
  have : Word.op (w &&& m) = Word.op w &&& Word.op m := BitVec.extractLsb'_and
  rw [this, h, BitVec.and_allOnes]

/-- A mask with ones at `n` keeps n. -/
theorem Word.n_and_mask (w : Word) {m : Word} (h : Word.n m = BitVec.allOnes 4) : Word.n (w &&& m) = Word.n w := by
  have : Word.n (w &&& m) = Word.n w &&& Word.n m := BitVec.extractLsb'_and
  rw [this, h, BitVec.and_allOnes]

/-- A mask with ones at `nn` keeps nn. -/
theorem Word.nn_and_mask (w : Word) {m : Word} (h : Word.nn m = BitVec.allOnes 8) : Word.nn (w &&& m) = Word.nn w := by
  have : Word.nn (w &&& m) = Word.nn w &&& Word.nn m := BitVec.extractLsb'_and
  rw [this, h, BitVec.and_allOnes]

/-- A word that agrees with a row under the mask F000 has the row's op. -/
theorem Word.op_of_F000 {w row : Word} (h : w &&& 0xF000#16 = row) : Word.op w = Word.op row := by
  rw [← h, Word.op_and_mask w (by decide)]

/-- A word that agrees with a row under the mask F00F has the row's op and n. -/
theorem Word.op_n_of_F00F {w row : Word} (h : w &&& 0xF00F#16 = row) :
    Word.op w = Word.op row ∧ Word.n w = Word.n row := by
  rw [← h, Word.op_and_mask w (by decide), Word.n_and_mask w (by decide)]
  exact ⟨rfl, rfl⟩

/-- A word that agrees with a row under the mask F0FF has the row's op and nn. -/
theorem Word.op_nn_of_F0FF {w row : Word} (h : w &&& 0xF0FF#16 = row) :
    Word.op w = Word.op row ∧ Word.nn w = Word.nn row := by
  rw [← h, Word.op_and_mask w (by decide), Word.nn_and_mask w (by decide)]
  exact ⟨rfl, rfl⟩

/-! ### An encoded word under its row's mask -/

theorem layoutA_and_F000 (op : Nibble) (nnn : Addr12) : layoutA op nnn &&& 0xF000#16 = layoutA op 0#12 := by
  rw [← Word.layoutA_fields (layoutA op nnn &&& 0xF000#16), Word.op_and_mask _ (by decide), layoutA_op]
  congr 1
  have : Word.nnn (layoutA op nnn &&& 0xF000#16) = Word.nnn (layoutA op nnn) &&& Word.nnn 0xF000#16 :=
    BitVec.extractLsb'_and
  rw [this, show Word.nnn 0xF000#16 = 0#12 from by decide, BitVec.and_zero]

theorem layoutX_and_F000 (op : Nibble) (x : Reg) (nn : Byte) :
    layoutX op x nn &&& 0xF000#16 = layoutA op 0#12 := by
  rw [← Word.layoutA_fields (layoutX op x nn), layoutA_and_F000, layoutX_op]

theorem layoutXY_and_F000 (op : Nibble) (x y : Reg) (n : Nibble) :
    layoutXY op x y n &&& 0xF000#16 = layoutA op 0#12 := by
  rw [← Word.layoutA_fields (layoutXY op x y n), layoutA_and_F000, layoutXY_op]

theorem layoutXY_and_F00F (op : Nibble) (x y : Reg) (n : Nibble) :
    layoutXY op x y n &&& 0xF00F#16 = layoutXY op 0#4 0#4 n := by
  rw [← Word.layoutXY_fields (layoutXY op x y n &&& 0xF00F#16), Word.op_and_mask _ (by decide),
    Word.n_and_mask _ (by decide), layoutXY_op, layoutXY_n]
  have hx : Word.x (layoutXY op x y n &&& 0xF00F#16) = Word.x (layoutXY op x y n) &&& Word.x 0xF00F#16 :=
    BitVec.extractLsb'_and
  have hy : Word.y (layoutXY op x y n &&& 0xF00F#16) = Word.y (layoutXY op x y n) &&& Word.y 0xF00F#16 :=
    BitVec.extractLsb'_and
  rw [hx, hy, show Word.x 0xF00F#16 = 0#4 from by decide, show Word.y 0xF00F#16 = 0#4 from by decide,
    BitVec.and_zero, BitVec.and_zero]

theorem layoutX_and_F0FF (op : Nibble) (x : Reg) (nn : Byte) :
    layoutX op x nn &&& 0xF0FF#16 = layoutX op 0#4 nn := by
  rw [← Word.layoutX_fields (layoutX op x nn &&& 0xF0FF#16), Word.op_and_mask _ (by decide),
    Word.nn_and_mask _ (by decide), layoutX_op, layoutX_nn]
  have hx : Word.x (layoutX op x nn &&& 0xF0FF#16) = Word.x (layoutX op x nn) &&& Word.x 0xF0FF#16 :=
    BitVec.extractLsb'_and
  rw [hx, show Word.x 0xF0FF#16 = 0#4 from by decide, BitVec.and_zero]

end Sys2Proof
end

