-- ==== Sys2Proof/Laws/Memory.lean ====
section
/-! SUPPORT. The laws of memory: read after write at every address of every list, and the canonical form, which every
memory operation keeps and in which equal contents are equal lists. -/

namespace Sys2Proof.Machine

@[simp] theorem Memory.read_nil (a : Nat) : Memory.read [] a = Memory.unlisted a := rfl

/-- An address no cell lists reads as the reset contents. -/
theorem Memory.read_unlisted {m : Memory} {a : Nat} (h : ∀ c ∈ m, c.1 ≠ a) : m.read a = Memory.unlisted a := by
  induction m with
  | nil => rfl
  | cons c m ih =>
    simp only [List.mem_cons, forall_eq_or_imp] at h
    simp [Memory.read, h.1, ih h.2]

theorem Memory.read_filter (m : Memory) (a b : Nat) :
    Memory.read (m.filter (fun c => decide (c.1 ≠ a))) b = if b = a then Memory.unlisted b else m.read b := by
  induction m with
  | nil => simp [Memory.read]
  | cons c m ih =>
    by_cases hc : c.1 = a
    · rw [List.filter_cons_of_neg (by simp [hc]), ih]
      by_cases hb : b = a
      · simp [hb]
      · have : c.1 ≠ b := fun h => hb (h ▸ hc)
        simp [hb, Memory.read, this]
    · rw [List.filter_cons_of_pos (by simp [hc])]
      simp only [Memory.read, ih]
      by_cases hcb : c.1 = b
      · have : b ≠ a := fun h => hc (hcb.trans h)
        simp [hcb, this]
      · simp [hcb]

theorem Memory.mem_insert {c d : Host.Cell} {m : Memory} : d ∈ Memory.insert c m ↔ d = c ∨ d ∈ m := by
  induction m with
  | nil => simp [Memory.insert]
  | cons e m ih =>
    simp only [Memory.insert]
    split
    · simp
    · simp [ih, or_left_comm]

theorem Memory.read_insert {c : Host.Cell} {m : Memory} (h : ∀ d ∈ m, d.1 ≠ c.1) (b : Nat) :
    Memory.read (Memory.insert c m) b = if b = c.1 then c.2 else m.read b := by
  induction m with
  | nil => simp [Memory.insert, Memory.read, eq_comm]
  | cons e m ih =>
    simp only [List.mem_cons, forall_eq_or_imp] at h
    simp only [Memory.insert]
    split
    · simp [Memory.read, eq_comm]
    · simp only [Memory.read, ih h.2]
      by_cases heb : e.1 = b
      · have : b ≠ c.1 := fun hb => h.1 (heb.trans hb)
        simp [heb, this]
      · simp [heb]

/-- Read after write: the written address has the byte, every other address reads as before. It holds of every list
of cells. -/
@[simp] theorem Memory.read_write (m : Memory) (a : Nat) (v : Byte) (b : Nat) :
    (m.write a v).read b = if b = a then v else m.read b := by
  unfold Memory.write
  split
  · next h => rw [Memory.read_filter]; split <;> simp_all
  · rw [Memory.read_insert (by simp), Memory.read_filter]
    split <;> simp_all

/-- Read after a write of consecutive bytes. -/
theorem Memory.read_writeBytes (m : Memory) (a : Nat) (bs : List Byte) (b : Nat) :
    (m.writeBytes a bs).read b = if h : a ≤ b ∧ b < a + bs.length then bs[b - a] else m.read b := by
  induction bs generalizing m a with
  | nil => simp only [Memory.writeBytes, List.length_nil]; rw [dif_neg (by omega)]
  | cons v bs ih =>
    rw [Memory.writeBytes, ih, Memory.read_write]
    by_cases hb : b = a
    · subst hb
      rw [dif_neg (by omega), dif_pos (by simp)]
      simp
    · by_cases hin : a + 1 ≤ b ∧ b < a + 1 + bs.length
      · rw [dif_pos hin, dif_pos (by simp only [List.length_cons]; omega)]
        have : b - a = b - (a + 1) + 1 := by omega
        simp [this]
      · rw [dif_neg hin, dif_neg (by simp only [List.length_cons]; omega), if_neg hb]

/-- A write of consecutive bytes leaves every other address alone. -/
theorem Memory.read_writeBytes_outside (m : Memory) (a : Nat) (bs : List Byte) {b : Nat}
    (h : b < a ∨ a + bs.length ≤ b) : (m.writeBytes a bs).read b = m.read b := by
  rw [Memory.read_writeBytes, dif_neg (by omega)]

@[simp] theorem Memory.length_readBytes (m : Memory) (a n : Nat) : (m.readBytes a n).length = n := by
  simp [Memory.readBytes]

@[simp] theorem Memory.getElem_readBytes (m : Memory) (a n k : Nat) (h : k < (m.readBytes a n).length) :
    (m.readBytes a n)[k] = m.read (a + k) := by
  simp [Memory.readBytes]

/-! ### The canonical form -/

/-- The empty list, the memory of `State.reset`, is in canonical form. -/
theorem Memory.wf_nil : Memory.wf [] := ⟨List.Pairwise.nil, by simp⟩

theorem Memory.wf_filter {m : Memory} (h : m.wf) (p : Host.Cell → Bool) : Memory.wf (m.filter p) :=
  ⟨h.1.filter p, fun c hc => h.2 c (List.mem_filter.mp hc).1⟩

theorem Memory.wf_insert {c : Host.Cell} {m : Memory} (h : m.wf) (hm : ∀ d ∈ m, d.1 ≠ c.1)
    (hc : c.1 < Config.memSize ∧ c.2 ≠ Memory.unlisted c.1) : Memory.wf (Memory.insert c m) := by
  refine ⟨?_, fun d hd => (Memory.mem_insert.mp hd).elim (fun e => e ▸ hc) (h.2 d)⟩
  obtain ⟨hs, -⟩ := h
  induction m with
  | nil => simp [Memory.insert]
  | cons e m ih =>
    simp only [List.mem_cons, forall_eq_or_imp] at hm
    rw [List.pairwise_cons] at hs
    simp only [Memory.insert]
    split
    · next hlt =>
      refine List.pairwise_cons.mpr ⟨?_, List.pairwise_cons.mpr hs⟩
      intro d hd
      rcases List.mem_cons.mp hd with rfl | hd
      · exact hlt
      · exact hlt.trans (hs.1 d hd)
    · next hlt =>
      refine List.pairwise_cons.mpr ⟨?_, ih hm.2 hs.2⟩
      intro d hd
      rcases Memory.mem_insert.mp hd with rfl | hd
      · have := hm.1; omega
      · exact hs.1 d hd

/-- A write keeps the canonical form. -/
theorem Memory.wf_write {m : Memory} (h : m.wf) {a : Nat} (ha : a < Config.memSize) (v : Byte) :
    (m.write a v).wf := by
  unfold Memory.write
  split
  · exact Memory.wf_filter h _
  · next hv => exact Memory.wf_insert (Memory.wf_filter h _) (by simp) ⟨ha, hv⟩

/-- A write of consecutive bytes keeps the canonical form. -/
theorem Memory.wf_writeBytes {m : Memory} (h : m.wf) {a : Nat} {bs : List Byte}
    (ha : a + bs.length ≤ Config.memSize) : (m.writeBytes a bs).wf := by
  induction bs generalizing m a with
  | nil => exact h
  | cons v bs ih =>
    simp only [List.length_cons] at ha
    exact ih (Memory.wf_write h (by omega) v) (by omega)

/-- An address below the first cell of a canonical list is unlisted. -/
theorem Memory.read_below {c : Host.Cell} {m : Memory} (h : Memory.wf (c :: m)) {a : Nat} (ha : a < c.1) :
    Memory.read (c :: m) a = Memory.unlisted a := by
  refine Memory.read_unlisted fun d hd => ?_
  rcases List.mem_cons.mp hd with rfl | hd
  · omega
  · have := (List.pairwise_cons.mp h.1).1 d hd; omega

/-- Equal contents are equal lists: two canonical memories that read alike at every address are the same. -/
theorem Memory.ext_of_wf {m n : Memory} (hm : m.wf) (hn : n.wf) (h : ∀ a, m.read a = n.read a) : m = n := by
  induction m generalizing n with
  | nil =>
    cases n with
    | nil => rfl
    | cons d n =>
      have hd := h d.1
      simp only [Memory.read, if_true] at hd
      exact absurd hd.symm (hn.2 d (by simp)).2
  | cons c m ih =>
    cases n with
    | nil =>
      have hc := h c.1
      simp only [Memory.read, if_true] at hc
      exact absurd hc (hm.2 c (by simp)).2
    | cons d n =>
      have hcd : c.1 = d.1 := by
        rcases Nat.lt_trichotomy c.1 d.1 with hlt | heq | hgt
        · have hc := h c.1
          rw [Memory.read_below hn hlt] at hc
          simp only [Memory.read, if_true] at hc
          exact absurd hc (hm.2 c (by simp)).2
        · exact heq
        · have hd := h d.1
          rw [Memory.read_below hm hgt] at hd
          simp only [Memory.read, if_true] at hd
          exact absurd hd.symm (hn.2 d (by simp)).2
      have h2 : c.2 = d.2 := by
        have := h c.1
        simpa [Memory.read, hcd] using this
      have hcd' : c = d := Prod.ext hcd h2
      subst hcd'
      have hm' := List.pairwise_cons.mp hm.1
      have hn' := List.pairwise_cons.mp hn.1
      congr 1
      refine ih ⟨hm'.2, fun e he => hm.2 e (by simp [he])⟩ ⟨hn'.2, fun e he => hn.2 e (by simp [he])⟩ fun a => ?_
      by_cases ha : c.1 = a
      · rw [Memory.read_unlisted fun e he => by have := hm'.1 e he; omega,
          Memory.read_unlisted fun e he => by have := hn'.1 e he; omega]
      · have := h a
        simpa [Memory.read, ha] using this

end Sys2Proof.Machine
end

