-- ==== Sys2Proof/Laws/Display.lean ====
section
/-! SUPPORT. The laws of the framebuffer, and what the drawing loop of R262 does to every pixel and to the collision
flag. -/

namespace Sys2Proof.Machine

/-! ### Pixels -/

theorem Framebuffer.pixel_off_grid (fb : Framebuffer) {x y : Nat} (h : ¬(y < 32 ∧ x < 64)) :
    fb.pixel x y = false := by
  simp [Framebuffer.pixel, h]

/-- Every pixel of the blank screen is off (R260). -/
@[simp] theorem Framebuffer.blank_pixel (x y : Nat) : Framebuffer.blank.pixel x y = false := by
  unfold Framebuffer.pixel Framebuffer.blank
  split <;> simp

/-- A toggle changes its own pixel, if it is on the grid, and no other. -/
theorem Framebuffer.toggle_pixel (fb : Framebuffer) (px py x y : Nat) :
    (fb.toggle px py).pixel x y
      = (fb.pixel x y ^^ decide (x = px ∧ y = py ∧ px < 64 ∧ py < 32)) := by
  unfold Framebuffer.toggle
  split
  · next h =>
    obtain ⟨hy, hx⟩ := h
    unfold Framebuffer.pixel
    by_cases hg : y < 32 ∧ x < 64
    · obtain ⟨hy', hx'⟩ := hg
      simp only [hy', hx', and_self, dite_true, Vector.getElem_set]
      by_cases h1 : py = y
      · subst h1
        simp only [if_true, Vector.getElem_set]
        by_cases h2 : px = x
        · subst h2; simp [hx, hy]
        · simp [h2, Ne.symm h2]
      · simp [h1, Ne.symm h1]
    · have : ¬(x = px ∧ y = py ∧ px < 64 ∧ py < 32) := by omega
      simp [hg, this]
  · next h =>
    have : ¬(x = px ∧ y = py ∧ px < 64 ∧ py < 32) := by omega
    simp [this]

/-- The pixels decide the framebuffer. -/
theorem Framebuffer.ext_pixel {f g : Framebuffer} (h : ∀ x y, f.pixel x y = g.pixel x y) : f = g := by
  apply Vector.ext
  intro y hy
  apply Vector.ext
  intro x hx
  simpa [Framebuffer.pixel, hx, hy] using h x y

/-! ### The drawing loop -/

/-- The bit `b` of a sprite row at column `x0` and screen row `py` is on the grid and 1. -/
def bitLit (x0 py : Nat) (row : Byte) (b : Nat) : Bool :=
  decide (x0 + b < 64 ∧ py < 32 ∧ row.getLsbD (7 - b) = true)

theorem drawBit_pixel (x0 py : Nat) (row : Byte) (c : Canvas) (b x y : Nat) :
    (drawBit x0 py row c b).fb.pixel x y
      = (c.fb.pixel x y ^^ decide (x = x0 + b ∧ y = py ∧ bitLit x0 py row b = true)) := by
  unfold drawBit bitLit
  split
  · next h =>
    obtain ⟨h1, h2, h3⟩ := h
    have h1' : x0 + b < 64 := h1
    have h2' : py < 32 := h2
    simp [Framebuffer.toggle_pixel, h1', h2', h3]
  · next h =>
    have : ¬(x0 + b < 64 ∧ py < 32 ∧ row.getLsbD (7 - b) = true) := h
    simp [this]

theorem drawBit_hit (x0 py : Nat) (row : Byte) (c : Canvas) (b : Nat) :
    (drawBit x0 py row c b).hit = (c.hit || (bitLit x0 py row b && c.fb.pixel (x0 + b) py)) := by
  unfold drawBit bitLit
  split
  · next h =>
    have h' : x0 + b < 64 ∧ py < 32 ∧ row.getLsbD (7 - b) = true := h
    simp [h']
  · next h =>
    have h' : ¬(x0 + b < 64 ∧ py < 32 ∧ row.getLsbD (7 - b) = true) := h
    simp [h']

/-- The first `n` bits of a row: each lit one toggles its own pixel. -/
theorem drawBits_pixel (x0 py : Nat) (row : Byte) (c : Canvas) (n x y : Nat) :
    ((List.range n).foldl (drawBit x0 py row) c).fb.pixel x y
      = (c.fb.pixel x y ^^ decide (y = py ∧ x0 ≤ x ∧ x < x0 + n ∧ bitLit x0 py row (x - x0) = true)) := by
  induction n with
  | zero =>
    have : ¬(y = py ∧ x0 ≤ x ∧ x < x0 + 0 ∧ bitLit x0 py row (x - x0) = true) := by omega
    simp only [List.range_zero, List.foldl_nil, this, decide_false, Bool.xor_false]
  | succ n ih =>
    rw [List.range_succ, List.foldl_append, List.foldl_cons, List.foldl_nil, drawBit_pixel, ih, Bool.xor_assoc]
    congr 1
    by_cases h : x = x0 + n
    · subst h
      have h1 : ¬(y = py ∧ x0 ≤ x0 + n ∧ x0 + n < x0 + n ∧ bitLit x0 py row (x0 + n - x0) = true) := by omega
      rw [decide_eq_false h1, Bool.false_xor]
      simp
    · have h1 : ¬(x = x0 + n ∧ y = py ∧ bitLit x0 py row n = true) := fun hh => h hh.1
      rw [decide_eq_false h1, Bool.xor_false]
      have h2 : x < x0 + (n + 1) ↔ x < x0 + n := by omega
      simp only [h2]

/-- The first `n` bits of a row: a collision is a lit bit whose pixel was on before the row. -/
theorem drawBits_hit (x0 py : Nat) (row : Byte) (c : Canvas) (n : Nat) :
    ((List.range n).foldl (drawBit x0 py row) c).hit = true
      ↔ c.hit = true ∨ ∃ b < n, bitLit x0 py row b = true ∧ c.fb.pixel (x0 + b) py = true := by
  induction n with
  | zero => simp
  | succ n ih =>
    have hp : ((List.range n).foldl (drawBit x0 py row) c).fb.pixel (x0 + n) py = c.fb.pixel (x0 + n) py := by
      rw [drawBits_pixel]
      have : ¬(py = py ∧ x0 ≤ x0 + n ∧ x0 + n < x0 + n ∧ bitLit x0 py row (x0 + n - x0) = true) := by omega
      rw [decide_eq_false this, Bool.xor_false]
    rw [List.range_succ, List.foldl_append, List.foldl_cons, List.foldl_nil, drawBit_hit, Bool.or_eq_true, ih, hp,
      Bool.and_eq_true, or_assoc]
    refine or_congr_right ⟨?_, ?_⟩
    · rintro (⟨b, hb, h⟩ | h)
      · exact ⟨b, by omega, h⟩
      · exact ⟨n, by omega, h⟩
    · rintro ⟨b, hb, h⟩
      rcases Nat.lt_succ_iff_lt_or_eq.mp hb with hlt | rfl
      · exact .inl ⟨b, hlt, h⟩
      · exact .inr h

/-- One row of a sprite: the bit at column offset `x - x0` toggles pixel (x, py). -/
theorem drawRow_pixel (x0 py : Nat) (row : Byte) (c : Canvas) {x y : Nat} (hx : x < 64) (hy : y < 32) :
    (drawRow x0 py row c).fb.pixel x y
      = (c.fb.pixel x y ^^ decide (y = py ∧ x0 ≤ x ∧ x < x0 + 8 ∧ row.getLsbD (7 - (x - x0)) = true)) := by
  rw [drawRow, drawBits_pixel]
  congr 1
  by_cases h : y = py ∧ x0 ≤ x ∧ x < x0 + 8
  · obtain ⟨rfl, h1, h2⟩ := h
    simp [bitLit, h1, h2, hx, hy]
  · rw [decide_eq_false (fun hh => h ⟨hh.1, hh.2.1, hh.2.2.1⟩), decide_eq_false (fun hh => h ⟨hh.1, hh.2.1, hh.2.2.1⟩)]

/-- The collision of one row. -/
theorem drawRow_hit (x0 py : Nat) (row : Byte) (c : Canvas) :
    (drawRow x0 py row c).hit = true ↔ c.hit = true ∨
      ∃ x, x < 64 ∧ py < 32 ∧ x0 ≤ x ∧ x < x0 + 8 ∧ row.getLsbD (7 - (x - x0)) = true ∧ c.fb.pixel x py = true := by
  rw [drawRow, drawBits_hit]
  refine or_congr_right ⟨?_, ?_⟩
  · rintro ⟨b, hb, hl, hp⟩
    simp only [bitLit, decide_eq_true_eq] at hl
    exact ⟨x0 + b, hl.1, hl.2.1, by omega, by omega, by simpa using hl.2.2, hp⟩
  · rintro ⟨x, h1, h2, h3, h4, h5, h6⟩
    refine ⟨x - x0, by omega, ?_, ?_⟩
    · simp only [bitLit, decide_eq_true_eq]
      exact ⟨by omega, h2, h5⟩
    · rwa [show x0 + (x - x0) = x by omega]

theorem spriteBit_nil (x0 y0 x y : Nat) : spriteBit x0 y0 [] x y = false := by
  have : ¬(x0 ≤ x ∧ x < x0 + 8 ∧ y0 ≤ y ∧ y < y0 + ([] : List Byte).length) := by
    simp only [List.length_nil]; omega
  simp only [spriteBit, this, decide_false, Bool.false_and]

/-- The bits of a sprite: those of its first row, and those of the rest one row lower. -/
theorem spriteBit_cons (x0 y0 : Nat) (row : Byte) (rows : List Byte) (x y : Nat) :
    spriteBit x0 y0 (row :: rows) x y
      = (decide (y = y0 ∧ x0 ≤ x ∧ x < x0 + 8 ∧ row.getLsbD (7 - (x - x0)) = true)
          ^^ spriteBit x0 (y0 + 1) rows x y) := by
  unfold spriteBit
  by_cases h : y = y0
  · subst h
    have h1 : ¬(x0 ≤ x ∧ x < x0 + 8 ∧ y + 1 ≤ y ∧ y < y + 1 + rows.length) := by omega
    rw [decide_eq_false h1]
    by_cases hx : x0 ≤ x ∧ x < x0 + 8
    · simp [hx]
    · rw [decide_eq_false (fun hh => hx ⟨hh.1, hh.2.1⟩), decide_eq_false (fun hh => hx ⟨hh.2.1, hh.2.2.1⟩)]
      rfl
  · have h1 : ¬(y = y0 ∧ x0 ≤ x ∧ x < x0 + 8 ∧ row.getLsbD (7 - (x - x0)) = true) := fun hh => h hh.1
    rw [decide_eq_false h1, Bool.false_xor]
    by_cases hy : y0 + 1 ≤ y
    · have h2 : y - y0 = y - (y0 + 1) + 1 := by omega
      rw [h2, List.getD_cons_succ]
      congr 2
      simp only [List.length_cons, eq_iff_iff]
      omega
    · rw [decide_eq_false (by omega), decide_eq_false (by omega), Bool.false_and, Bool.false_and]

/-- What the drawing loop does to the screen: pixel (x, y) of the grid changes exactly if the sprite has a 1 bit
there (R262). -/
theorem drawRows_pixel (x0 py : Nat) (rows : List Byte) (c : Canvas) {x y : Nat} (hx : x < 64) (hy : y < 32) :
    (drawRows x0 py rows c).fb.pixel x y = (c.fb.pixel x y ^^ spriteBit x0 py rows x y) := by
  induction rows generalizing py c with
  | nil => rw [drawRows, spriteBit_nil, Bool.xor_false]
  | cons row rows ih => rw [drawRows, ih, drawRow_pixel x0 py row c hx hy, spriteBit_cons, Bool.xor_assoc]

/-- What the drawing loop says of a collision: some pixel of the grid was on where the sprite has a 1 bit (R262). -/
theorem drawRows_hit (x0 py : Nat) (rows : List Byte) (c : Canvas) :
    (drawRows x0 py rows c).hit = true ↔ c.hit = true ∨
      ∃ x y, x < 64 ∧ y < 32 ∧ spriteBit x0 py rows x y = true ∧ c.fb.pixel x y = true := by
  induction rows generalizing py c with
  | nil => simp [drawRows, spriteBit_nil]
  | cons row rows ih =>
    rw [drawRows, ih, drawRow_hit, or_assoc]
    refine or_congr_right ⟨?_, ?_⟩
    · rintro (⟨x, h1, h2, h3, h4, h5, h6⟩ | ⟨x, y, hx, hy, hs, hp⟩)
      · refine ⟨x, py, h1, h2, ?_, h6⟩
        rw [spriteBit_cons]
        have : spriteBit x0 (py + 1) rows x py = false := by
          rw [spriteBit, decide_eq_false (by omega), Bool.false_and]
        simp [this, h3, h4, h5]
      · have hne : y ≠ py := by
          rintro rfl
          simp only [spriteBit, Bool.and_eq_true, decide_eq_true_eq] at hs
          omega
        refine ⟨x, y, hx, hy, ?_, ?_⟩
        · rw [spriteBit_cons]; simp [hne, hs]
        · rw [drawRow_pixel x0 py row c hx hy] at hp
          simpa [hne] using hp
    · rintro ⟨x, y, hx, hy, hs, hp⟩
      rw [spriteBit_cons] at hs
      by_cases hyp : y = py
      · subst hyp
        have : spriteBit x0 (y + 1) rows x y = false := by
          rw [spriteBit, decide_eq_false (by omega), Bool.false_and]
        rw [this, Bool.xor_false, decide_eq_true_eq] at hs
        exact .inl ⟨x, hx, hy, hs.2.1, hs.2.2.1, hs.2.2.2, hp⟩
      · refine .inr ⟨x, y, hx, hy, ?_, ?_⟩
        · simpa [hyp] using hs
        · rw [drawRow_pixel x0 py row c hx hy]; simpa [hyp] using hp

/-- The rows a state's `draw` reads give the sprite that claims speak of. -/
theorem spriteBit_spriteRows (s : State) (vx vy : Reg) (n : Nibble) (x y : Nat) :
    spriteBit (s.startX vx) (s.startY vy) (s.spriteRows n) x y = s.spriteAt vx vy n x y := by
  unfold spriteBit State.spriteAt State.startX State.startY State.spriteRows
  rw [Memory.length_readBytes]
  by_cases h : (s.reg vx).toNat % 64 ≤ x ∧ x < (s.reg vx).toNat % 64 + 8 ∧
      (s.reg vy).toNat % 32 ≤ y ∧ y < (s.reg vy).toNat % 32 + n.toNat
  · have hk : y - (s.reg vy).toNat % 32 < n.toNat := by omega
    simp [h, Memory.readBytes, hk]
  · rw [decide_eq_false h, Bool.false_and, Bool.false_and]

end Sys2Proof.Machine
end

