-- ==== Sys2Proof/Laws/PerInstr.lean ====
section
/-! SUPPORT. Family RowEncoding: the word of an instruction, under the mask of its row of the opcode map, is the row's
match (R112). One lemma per constructor. -/

namespace Sys2Proof.Laws

/-- The encoded word agrees with the instruction's row of R112. -/
def RowEncoding.Statement (i : Instr) : Prop := encode i &&& i.row.1 = i.row.2

theorem RowEncoding.clearScreen : RowEncoding.Statement .clearScreen := by
  unfold RowEncoding.Statement; decide

theorem RowEncoding.ret : RowEncoding.Statement .ret := by
  unfold RowEncoding.Statement; decide

theorem RowEncoding.jump (nnn : Addr12) : RowEncoding.Statement (.jump nnn) :=
  layoutA_and_F000 _ _

theorem RowEncoding.call (nnn : Addr12) : RowEncoding.Statement (.call nnn) :=
  layoutA_and_F000 _ _

theorem RowEncoding.skipEqImm (x : Reg) (nn : Byte) : RowEncoding.Statement (.skipEqImm x nn) :=
  layoutX_and_F000 _ _ _

theorem RowEncoding.skipNeImm (x : Reg) (nn : Byte) : RowEncoding.Statement (.skipNeImm x nn) :=
  layoutX_and_F000 _ _ _

theorem RowEncoding.skipEqReg (x : Reg) (y : Reg) (n : Nibble) : RowEncoding.Statement (.skipEqReg x y n) :=
  layoutXY_and_F000 _ _ _ _

theorem RowEncoding.setReg (x : Reg) (nn : Byte) : RowEncoding.Statement (.setReg x nn) :=
  layoutX_and_F000 _ _ _

theorem RowEncoding.addToReg (x : Reg) (nn : Byte) : RowEncoding.Statement (.addToReg x nn) :=
  layoutX_and_F000 _ _ _

theorem RowEncoding.set (x : Reg) (y : Reg) : RowEncoding.Statement (.set x y) :=
  layoutXY_and_F00F _ _ _ _

theorem RowEncoding.or (x : Reg) (y : Reg) : RowEncoding.Statement (.or x y) :=
  layoutXY_and_F00F _ _ _ _

theorem RowEncoding.and (x : Reg) (y : Reg) : RowEncoding.Statement (.and x y) :=
  layoutXY_and_F00F _ _ _ _

theorem RowEncoding.xor (x : Reg) (y : Reg) : RowEncoding.Statement (.xor x y) :=
  layoutXY_and_F00F _ _ _ _

theorem RowEncoding.add (x : Reg) (y : Reg) : RowEncoding.Statement (.add x y) :=
  layoutXY_and_F00F _ _ _ _

theorem RowEncoding.subtract (x : Reg) (y : Reg) : RowEncoding.Statement (.subtract x y) :=
  layoutXY_and_F00F _ _ _ _

theorem RowEncoding.shiftRight (x : Reg) (y : Reg) : RowEncoding.Statement (.shiftRight x y) :=
  layoutXY_and_F00F _ _ _ _

theorem RowEncoding.subtractReverse (x : Reg) (y : Reg) : RowEncoding.Statement (.subtractReverse x y) :=
  layoutXY_and_F00F _ _ _ _

theorem RowEncoding.shiftLeft (x : Reg) (y : Reg) : RowEncoding.Statement (.shiftLeft x y) :=
  layoutXY_and_F00F _ _ _ _

theorem RowEncoding.skipNeReg (x : Reg) (y : Reg) (n : Nibble) : RowEncoding.Statement (.skipNeReg x y n) :=
  layoutXY_and_F000 _ _ _ _

theorem RowEncoding.setIndex (nnn : Addr12) : RowEncoding.Statement (.setIndex nnn) :=
  layoutA_and_F000 _ _

theorem RowEncoding.jumpWithOffset (nnn : Addr12) : RowEncoding.Statement (.jumpWithOffset nnn) :=
  layoutA_and_F000 _ _

theorem RowEncoding.random (x : Reg) (nn : Byte) : RowEncoding.Statement (.random x nn) :=
  layoutX_and_F000 _ _ _

theorem RowEncoding.draw (x : Reg) (y : Reg) (n : Nibble) : RowEncoding.Statement (.draw x y n) :=
  layoutXY_and_F000 _ _ _ _

theorem RowEncoding.skipKeyPressed (x : Reg) : RowEncoding.Statement (.skipKeyPressed x) :=
  layoutX_and_F0FF _ _ _

theorem RowEncoding.skipKeyNotPressed (x : Reg) : RowEncoding.Statement (.skipKeyNotPressed x) :=
  layoutX_and_F0FF _ _ _

theorem RowEncoding.readDelayTimer (x : Reg) : RowEncoding.Statement (.readDelayTimer x) :=
  layoutX_and_F0FF _ _ _

theorem RowEncoding.waitForKeypress (x : Reg) : RowEncoding.Statement (.waitForKeypress x) :=
  layoutX_and_F0FF _ _ _

theorem RowEncoding.setDelayTimer (x : Reg) : RowEncoding.Statement (.setDelayTimer x) :=
  layoutX_and_F0FF _ _ _

theorem RowEncoding.setSoundTimer (x : Reg) : RowEncoding.Statement (.setSoundTimer x) :=
  layoutX_and_F0FF _ _ _

theorem RowEncoding.addToIndex (x : Reg) : RowEncoding.Statement (.addToIndex x) :=
  layoutX_and_F0FF _ _ _

theorem RowEncoding.getFontChar (x : Reg) : RowEncoding.Statement (.getFontChar x) :=
  layoutX_and_F0FF _ _ _

theorem RowEncoding.bcdConversion (x : Reg) : RowEncoding.Statement (.bcdConversion x) :=
  layoutX_and_F0FF _ _ _

theorem RowEncoding.store (x : Reg) : RowEncoding.Statement (.store x) :=
  layoutX_and_F0FF _ _ _

theorem RowEncoding.load (x : Reg) : RowEncoding.Statement (.load x) :=
  layoutX_and_F0FF _ _ _

end Sys2Proof.Laws
end

