-- ==== Sys2Proof/Laws/State.lean ====
section
/-! SUPPORT. One lemma for each field of State and each update, true by rfl, so that no proof unfolds a record update;
and the law of the general registers. -/

namespace Sys2Proof.Machine

/-! ### `State.setReg` -/

@[simp] theorem State.setReg_mem (s : State) (x : Reg) (b : Byte) : (s.setReg x b).mem = s.mem := rfl
@[simp] theorem State.setReg_v (s : State) (x : Reg) (b : Byte) : (s.setReg x b).v = s.v.set x.toNat b x.isLt := rfl
@[simp] theorem State.setReg_i (s : State) (x : Reg) (b : Byte) : (s.setReg x b).i = s.i := rfl
@[simp] theorem State.setReg_pc (s : State) (x : Reg) (b : Byte) : (s.setReg x b).pc = s.pc := rfl
@[simp] theorem State.setReg_stack (s : State) (x : Reg) (b : Byte) : (s.setReg x b).stack = s.stack := rfl
@[simp] theorem State.setReg_dt (s : State) (x : Reg) (b : Byte) : (s.setReg x b).dt = s.dt := rfl
@[simp] theorem State.setReg_st (s : State) (x : Reg) (b : Byte) : (s.setReg x b).st = s.st := rfl
@[simp] theorem State.setReg_fb (s : State) (x : Reg) (b : Byte) : (s.setReg x b).fb = s.fb := rfl
@[simp] theorem State.setReg_status (s : State) (x : Reg) (b : Byte) : (s.setReg x b).status = s.status := rfl
@[simp] theorem State.setReg_stop (s : State) (x : Reg) (b : Byte) : (s.setReg x b).stop = s.stop := rfl
@[simp] theorem State.setReg_inp (s : State) (x : Reg) (b : Byte) : (s.setReg x b).inp = s.inp := rfl
@[simp] theorem State.setReg_clock (s : State) (x : Reg) (b : Byte) : (s.setReg x b).clock = s.clock := rfl

/-! ### `State.setPc` -/

@[simp] theorem State.setPc_mem (s : State) (w : Word) : (s.setPc w).mem = s.mem := rfl
@[simp] theorem State.setPc_v (s : State) (w : Word) : (s.setPc w).v = s.v := rfl
@[simp] theorem State.setPc_i (s : State) (w : Word) : (s.setPc w).i = s.i := rfl
@[simp] theorem State.setPc_pc (s : State) (w : Word) : (s.setPc w).pc = w := rfl
@[simp] theorem State.setPc_stack (s : State) (w : Word) : (s.setPc w).stack = s.stack := rfl
@[simp] theorem State.setPc_dt (s : State) (w : Word) : (s.setPc w).dt = s.dt := rfl
@[simp] theorem State.setPc_st (s : State) (w : Word) : (s.setPc w).st = s.st := rfl
@[simp] theorem State.setPc_fb (s : State) (w : Word) : (s.setPc w).fb = s.fb := rfl
@[simp] theorem State.setPc_status (s : State) (w : Word) : (s.setPc w).status = s.status := rfl
@[simp] theorem State.setPc_stop (s : State) (w : Word) : (s.setPc w).stop = s.stop := rfl
@[simp] theorem State.setPc_inp (s : State) (w : Word) : (s.setPc w).inp = s.inp := rfl
@[simp] theorem State.setPc_clock (s : State) (w : Word) : (s.setPc w).clock = s.clock := rfl
@[simp] theorem State.setPc_reg (s : State) (w : Word) (r : Reg) : (s.setPc w).reg r = s.reg r := rfl
@[simp] theorem State.setPc_keys (s : State) (w : Word) : (s.setPc w).keys = s.keys := rfl
@[simp] theorem State.setPc_rand (s : State) (w : Word) : (s.setPc w).rand = s.rand := rfl
@[simp] theorem State.setPc_pick (s : State) (w : Word) : (s.setPc w).pick = s.pick := rfl
@[simp] theorem State.setPc_ticks (s : State) (w : Word) : (s.setPc w).ticks = s.ticks := rfl

/-! ### `State.advance` -/

@[simp] theorem State.advance_mem (s : State) : s.advance.mem = s.mem := rfl
@[simp] theorem State.advance_v (s : State) : s.advance.v = s.v := rfl
@[simp] theorem State.advance_i (s : State) : s.advance.i = s.i := rfl
@[simp] theorem State.advance_pc (s : State) : s.advance.pc = s.pc + 2#16 := rfl
@[simp] theorem State.advance_stack (s : State) : s.advance.stack = s.stack := rfl
@[simp] theorem State.advance_dt (s : State) : s.advance.dt = s.dt := rfl
@[simp] theorem State.advance_st (s : State) : s.advance.st = s.st := rfl
@[simp] theorem State.advance_fb (s : State) : s.advance.fb = s.fb := rfl
@[simp] theorem State.advance_status (s : State) : s.advance.status = s.status := rfl
@[simp] theorem State.advance_stop (s : State) : s.advance.stop = s.stop := rfl
@[simp] theorem State.advance_inp (s : State) : s.advance.inp = s.inp := rfl
@[simp] theorem State.advance_clock (s : State) : s.advance.clock = s.clock := rfl
@[simp] theorem State.advance_reg (s : State) (r : Reg) : s.advance.reg r = s.reg r := rfl
@[simp] theorem State.advance_keys (s : State) : s.advance.keys = s.keys := rfl
@[simp] theorem State.advance_rand (s : State) : s.advance.rand = s.rand := rfl
@[simp] theorem State.advance_pick (s : State) : s.advance.pick = s.pick := rfl
@[simp] theorem State.advance_ticks (s : State) : s.advance.ticks = s.ticks := rfl

/-! ### `State.setI` -/

@[simp] theorem State.setI_mem (s : State) (w : Word) : (s.setI w).mem = s.mem := rfl
@[simp] theorem State.setI_v (s : State) (w : Word) : (s.setI w).v = s.v := rfl
@[simp] theorem State.setI_i (s : State) (w : Word) : (s.setI w).i = w := rfl
@[simp] theorem State.setI_pc (s : State) (w : Word) : (s.setI w).pc = s.pc := rfl
@[simp] theorem State.setI_stack (s : State) (w : Word) : (s.setI w).stack = s.stack := rfl
@[simp] theorem State.setI_dt (s : State) (w : Word) : (s.setI w).dt = s.dt := rfl
@[simp] theorem State.setI_st (s : State) (w : Word) : (s.setI w).st = s.st := rfl
@[simp] theorem State.setI_fb (s : State) (w : Word) : (s.setI w).fb = s.fb := rfl
@[simp] theorem State.setI_status (s : State) (w : Word) : (s.setI w).status = s.status := rfl
@[simp] theorem State.setI_stop (s : State) (w : Word) : (s.setI w).stop = s.stop := rfl
@[simp] theorem State.setI_inp (s : State) (w : Word) : (s.setI w).inp = s.inp := rfl
@[simp] theorem State.setI_clock (s : State) (w : Word) : (s.setI w).clock = s.clock := rfl
@[simp] theorem State.setI_reg (s : State) (w : Word) (r : Reg) : (s.setI w).reg r = s.reg r := rfl

/-! ### `State.setDt` -/

@[simp] theorem State.setDt_mem (s : State) (b : Byte) : (s.setDt b).mem = s.mem := rfl
@[simp] theorem State.setDt_v (s : State) (b : Byte) : (s.setDt b).v = s.v := rfl
@[simp] theorem State.setDt_i (s : State) (b : Byte) : (s.setDt b).i = s.i := rfl
@[simp] theorem State.setDt_pc (s : State) (b : Byte) : (s.setDt b).pc = s.pc := rfl
@[simp] theorem State.setDt_stack (s : State) (b : Byte) : (s.setDt b).stack = s.stack := rfl
@[simp] theorem State.setDt_dt (s : State) (b : Byte) : (s.setDt b).dt = b := rfl
@[simp] theorem State.setDt_st (s : State) (b : Byte) : (s.setDt b).st = s.st := rfl
@[simp] theorem State.setDt_fb (s : State) (b : Byte) : (s.setDt b).fb = s.fb := rfl
@[simp] theorem State.setDt_status (s : State) (b : Byte) : (s.setDt b).status = s.status := rfl
@[simp] theorem State.setDt_stop (s : State) (b : Byte) : (s.setDt b).stop = s.stop := rfl
@[simp] theorem State.setDt_inp (s : State) (b : Byte) : (s.setDt b).inp = s.inp := rfl
@[simp] theorem State.setDt_clock (s : State) (b : Byte) : (s.setDt b).clock = s.clock := rfl
@[simp] theorem State.setDt_reg (s : State) (b : Byte) (r : Reg) : (s.setDt b).reg r = s.reg r := rfl

/-! ### `State.setSt` -/

@[simp] theorem State.setSt_mem (s : State) (b : Byte) : (s.setSt b).mem = s.mem := rfl
@[simp] theorem State.setSt_v (s : State) (b : Byte) : (s.setSt b).v = s.v := rfl
@[simp] theorem State.setSt_i (s : State) (b : Byte) : (s.setSt b).i = s.i := rfl
@[simp] theorem State.setSt_pc (s : State) (b : Byte) : (s.setSt b).pc = s.pc := rfl
@[simp] theorem State.setSt_stack (s : State) (b : Byte) : (s.setSt b).stack = s.stack := rfl
@[simp] theorem State.setSt_dt (s : State) (b : Byte) : (s.setSt b).dt = s.dt := rfl
@[simp] theorem State.setSt_st (s : State) (b : Byte) : (s.setSt b).st = b := rfl
@[simp] theorem State.setSt_fb (s : State) (b : Byte) : (s.setSt b).fb = s.fb := rfl
@[simp] theorem State.setSt_status (s : State) (b : Byte) : (s.setSt b).status = s.status := rfl
@[simp] theorem State.setSt_stop (s : State) (b : Byte) : (s.setSt b).stop = s.stop := rfl
@[simp] theorem State.setSt_inp (s : State) (b : Byte) : (s.setSt b).inp = s.inp := rfl
@[simp] theorem State.setSt_clock (s : State) (b : Byte) : (s.setSt b).clock = s.clock := rfl
@[simp] theorem State.setSt_reg (s : State) (b : Byte) (r : Reg) : (s.setSt b).reg r = s.reg r := rfl

/-! ### `State.setFb` -/

@[simp] theorem State.setFb_mem (s : State) (f : Framebuffer) : (s.setFb f).mem = s.mem := rfl
@[simp] theorem State.setFb_v (s : State) (f : Framebuffer) : (s.setFb f).v = s.v := rfl
@[simp] theorem State.setFb_i (s : State) (f : Framebuffer) : (s.setFb f).i = s.i := rfl
@[simp] theorem State.setFb_pc (s : State) (f : Framebuffer) : (s.setFb f).pc = s.pc := rfl
@[simp] theorem State.setFb_stack (s : State) (f : Framebuffer) : (s.setFb f).stack = s.stack := rfl
@[simp] theorem State.setFb_dt (s : State) (f : Framebuffer) : (s.setFb f).dt = s.dt := rfl
@[simp] theorem State.setFb_st (s : State) (f : Framebuffer) : (s.setFb f).st = s.st := rfl
@[simp] theorem State.setFb_fb (s : State) (f : Framebuffer) : (s.setFb f).fb = f := rfl
@[simp] theorem State.setFb_status (s : State) (f : Framebuffer) : (s.setFb f).status = s.status := rfl
@[simp] theorem State.setFb_stop (s : State) (f : Framebuffer) : (s.setFb f).stop = s.stop := rfl
@[simp] theorem State.setFb_inp (s : State) (f : Framebuffer) : (s.setFb f).inp = s.inp := rfl
@[simp] theorem State.setFb_clock (s : State) (f : Framebuffer) : (s.setFb f).clock = s.clock := rfl
@[simp] theorem State.setFb_reg (s : State) (f : Framebuffer) (r : Reg) : (s.setFb f).reg r = s.reg r := rfl

/-! ### `State.setMem` -/

@[simp] theorem State.setMem_mem (s : State) (m : Memory) : (s.setMem m).mem = m := rfl
@[simp] theorem State.setMem_v (s : State) (m : Memory) : (s.setMem m).v = s.v := rfl
@[simp] theorem State.setMem_i (s : State) (m : Memory) : (s.setMem m).i = s.i := rfl
@[simp] theorem State.setMem_pc (s : State) (m : Memory) : (s.setMem m).pc = s.pc := rfl
@[simp] theorem State.setMem_stack (s : State) (m : Memory) : (s.setMem m).stack = s.stack := rfl
@[simp] theorem State.setMem_dt (s : State) (m : Memory) : (s.setMem m).dt = s.dt := rfl
@[simp] theorem State.setMem_st (s : State) (m : Memory) : (s.setMem m).st = s.st := rfl
@[simp] theorem State.setMem_fb (s : State) (m : Memory) : (s.setMem m).fb = s.fb := rfl
@[simp] theorem State.setMem_status (s : State) (m : Memory) : (s.setMem m).status = s.status := rfl
@[simp] theorem State.setMem_stop (s : State) (m : Memory) : (s.setMem m).stop = s.stop := rfl
@[simp] theorem State.setMem_inp (s : State) (m : Memory) : (s.setMem m).inp = s.inp := rfl
@[simp] theorem State.setMem_clock (s : State) (m : Memory) : (s.setMem m).clock = s.clock := rfl
@[simp] theorem State.setMem_reg (s : State) (m : Memory) (r : Reg) : (s.setMem m).reg r = s.reg r := rfl

/-! ### `State.setStack` -/

@[simp] theorem State.setStack_mem (s : State) (l : List Word) : (s.setStack l).mem = s.mem := rfl
@[simp] theorem State.setStack_v (s : State) (l : List Word) : (s.setStack l).v = s.v := rfl
@[simp] theorem State.setStack_i (s : State) (l : List Word) : (s.setStack l).i = s.i := rfl
@[simp] theorem State.setStack_pc (s : State) (l : List Word) : (s.setStack l).pc = s.pc := rfl
@[simp] theorem State.setStack_stack (s : State) (l : List Word) : (s.setStack l).stack = l := rfl
@[simp] theorem State.setStack_dt (s : State) (l : List Word) : (s.setStack l).dt = s.dt := rfl
@[simp] theorem State.setStack_st (s : State) (l : List Word) : (s.setStack l).st = s.st := rfl
@[simp] theorem State.setStack_fb (s : State) (l : List Word) : (s.setStack l).fb = s.fb := rfl
@[simp] theorem State.setStack_status (s : State) (l : List Word) : (s.setStack l).status = s.status := rfl
@[simp] theorem State.setStack_stop (s : State) (l : List Word) : (s.setStack l).stop = s.stop := rfl
@[simp] theorem State.setStack_inp (s : State) (l : List Word) : (s.setStack l).inp = s.inp := rfl
@[simp] theorem State.setStack_clock (s : State) (l : List Word) : (s.setStack l).clock = s.clock := rfl
@[simp] theorem State.setStack_reg (s : State) (l : List Word) (r : Reg) : (s.setStack l).reg r = s.reg r := rfl

/-! ### `State.push` -/

@[simp] theorem State.push_mem (s : State) (w : Word) : (s.push w).mem = s.mem := rfl
@[simp] theorem State.push_v (s : State) (w : Word) : (s.push w).v = s.v := rfl
@[simp] theorem State.push_i (s : State) (w : Word) : (s.push w).i = s.i := rfl
@[simp] theorem State.push_pc (s : State) (w : Word) : (s.push w).pc = s.pc := rfl
@[simp] theorem State.push_stack (s : State) (w : Word) : (s.push w).stack = w :: s.stack := rfl
@[simp] theorem State.push_dt (s : State) (w : Word) : (s.push w).dt = s.dt := rfl
@[simp] theorem State.push_st (s : State) (w : Word) : (s.push w).st = s.st := rfl
@[simp] theorem State.push_fb (s : State) (w : Word) : (s.push w).fb = s.fb := rfl
@[simp] theorem State.push_status (s : State) (w : Word) : (s.push w).status = s.status := rfl
@[simp] theorem State.push_stop (s : State) (w : Word) : (s.push w).stop = s.stop := rfl
@[simp] theorem State.push_inp (s : State) (w : Word) : (s.push w).inp = s.inp := rfl
@[simp] theorem State.push_clock (s : State) (w : Word) : (s.push w).clock = s.clock := rfl
@[simp] theorem State.push_reg (s : State) (w : Word) (r : Reg) : (s.push w).reg r = s.reg r := rfl

/-! ### `State.setRegFlag` -/

@[simp] theorem State.setRegFlag_mem (s : State) (x : Reg) (b : Byte) (f : Bool) : (s.setRegFlag x b f).mem = s.mem := rfl
@[simp] theorem State.setRegFlag_i (s : State) (x : Reg) (b : Byte) (f : Bool) : (s.setRegFlag x b f).i = s.i := rfl
@[simp] theorem State.setRegFlag_pc (s : State) (x : Reg) (b : Byte) (f : Bool) : (s.setRegFlag x b f).pc = s.pc := rfl
@[simp] theorem State.setRegFlag_stack (s : State) (x : Reg) (b : Byte) (f : Bool) : (s.setRegFlag x b f).stack = s.stack := rfl
@[simp] theorem State.setRegFlag_dt (s : State) (x : Reg) (b : Byte) (f : Bool) : (s.setRegFlag x b f).dt = s.dt := rfl
@[simp] theorem State.setRegFlag_st (s : State) (x : Reg) (b : Byte) (f : Bool) : (s.setRegFlag x b f).st = s.st := rfl
@[simp] theorem State.setRegFlag_fb (s : State) (x : Reg) (b : Byte) (f : Bool) : (s.setRegFlag x b f).fb = s.fb := rfl
@[simp] theorem State.setRegFlag_status (s : State) (x : Reg) (b : Byte) (f : Bool) : (s.setRegFlag x b f).status = s.status := rfl
@[simp] theorem State.setRegFlag_stop (s : State) (x : Reg) (b : Byte) (f : Bool) : (s.setRegFlag x b f).stop = s.stop := rfl
@[simp] theorem State.setRegFlag_inp (s : State) (x : Reg) (b : Byte) (f : Bool) : (s.setRegFlag x b f).inp = s.inp := rfl
@[simp] theorem State.setRegFlag_clock (s : State) (x : Reg) (b : Byte) (f : Bool) : (s.setRegFlag x b f).clock = s.clock := rfl

/-! ### `State.raise` -/

@[simp] theorem State.raise_mem (s : State) (c : Cause) (w info : Option Word) : (s.raise c w info).mem = s.mem := rfl
@[simp] theorem State.raise_v (s : State) (c : Cause) (w info : Option Word) : (s.raise c w info).v = s.v := rfl
@[simp] theorem State.raise_i (s : State) (c : Cause) (w info : Option Word) : (s.raise c w info).i = s.i := rfl
@[simp] theorem State.raise_pc (s : State) (c : Cause) (w info : Option Word) : (s.raise c w info).pc = s.pc := rfl
@[simp] theorem State.raise_stack (s : State) (c : Cause) (w info : Option Word) : (s.raise c w info).stack = s.stack := rfl
@[simp] theorem State.raise_dt (s : State) (c : Cause) (w info : Option Word) : (s.raise c w info).dt = s.dt := rfl
@[simp] theorem State.raise_st (s : State) (c : Cause) (w info : Option Word) : (s.raise c w info).st = s.st := rfl
@[simp] theorem State.raise_fb (s : State) (c : Cause) (w info : Option Word) : (s.raise c w info).fb = s.fb := rfl
@[simp] theorem State.raise_status (s : State) (c : Cause) (w info : Option Word) : (s.raise c w info).status = .faulted { cause := c, addr := s.pc, word := w, info := info } := rfl
@[simp] theorem State.raise_stop (s : State) (c : Cause) (w info : Option Word) : (s.raise c w info).stop = s.stop := rfl
@[simp] theorem State.raise_inp (s : State) (c : Cause) (w info : Option Word) : (s.raise c w info).inp = s.inp := rfl
@[simp] theorem State.raise_clock (s : State) (c : Cause) (w info : Option Word) : (s.raise c w info).clock = s.clock := rfl
@[simp] theorem State.raise_reg (s : State) (c : Cause) (w info : Option Word) (r : Reg) : (s.raise c w info).reg r = s.reg r := rfl

/-! ### `State.consume` -/

@[simp] theorem State.consume_mem (s : State) : s.consume.mem = s.mem := rfl
@[simp] theorem State.consume_v (s : State) : s.consume.v = s.v := rfl
@[simp] theorem State.consume_i (s : State) : s.consume.i = s.i := rfl
@[simp] theorem State.consume_pc (s : State) : s.consume.pc = s.pc := rfl
@[simp] theorem State.consume_stack (s : State) : s.consume.stack = s.stack := rfl
@[simp] theorem State.consume_dt (s : State) : s.consume.dt = s.dt := rfl
@[simp] theorem State.consume_st (s : State) : s.consume.st = s.st := rfl
@[simp] theorem State.consume_fb (s : State) : s.consume.fb = s.fb := rfl
@[simp] theorem State.consume_status (s : State) : s.consume.status = s.status := rfl
@[simp] theorem State.consume_stop (s : State) : s.consume.stop = s.stop := rfl
@[simp] theorem State.consume_inp (s : State) : s.consume.inp = Inputs.free := rfl
@[simp] theorem State.consume_clock (s : State) : s.consume.clock = s.clock + 1 := rfl
@[simp] theorem State.consume_reg (s : State) (r : Reg) : s.consume.reg r = s.reg r := rfl

/-! ### `State.supply` -/

@[simp] theorem State.supply_mem (s : State) (n : Inputs) : (s.supply n).mem = s.mem := rfl
@[simp] theorem State.supply_v (s : State) (n : Inputs) : (s.supply n).v = s.v := rfl
@[simp] theorem State.supply_i (s : State) (n : Inputs) : (s.supply n).i = s.i := rfl
@[simp] theorem State.supply_pc (s : State) (n : Inputs) : (s.supply n).pc = s.pc := rfl
@[simp] theorem State.supply_stack (s : State) (n : Inputs) : (s.supply n).stack = s.stack := rfl
@[simp] theorem State.supply_dt (s : State) (n : Inputs) : (s.supply n).dt = s.dt := rfl
@[simp] theorem State.supply_st (s : State) (n : Inputs) : (s.supply n).st = s.st := rfl
@[simp] theorem State.supply_fb (s : State) (n : Inputs) : (s.supply n).fb = s.fb := rfl
@[simp] theorem State.supply_status (s : State) (n : Inputs) : (s.supply n).status = s.status := rfl
@[simp] theorem State.supply_stop (s : State) (n : Inputs) : (s.supply n).stop = s.stop := rfl
@[simp] theorem State.supply_inp (s : State) (n : Inputs) : (s.supply n).inp = n := rfl
@[simp] theorem State.supply_clock (s : State) (n : Inputs) : (s.supply n).clock = s.clock := rfl
@[simp] theorem State.supply_reg (s : State) (n : Inputs) (r : Reg) : (s.supply n).reg r = s.reg r := rfl

/-! ### `State.raiseStop` -/

@[simp] theorem State.raiseStop_mem (s : State) : s.raiseStop.mem = s.mem := rfl
@[simp] theorem State.raiseStop_v (s : State) : s.raiseStop.v = s.v := rfl
@[simp] theorem State.raiseStop_i (s : State) : s.raiseStop.i = s.i := rfl
@[simp] theorem State.raiseStop_pc (s : State) : s.raiseStop.pc = s.pc := rfl
@[simp] theorem State.raiseStop_stack (s : State) : s.raiseStop.stack = s.stack := rfl
@[simp] theorem State.raiseStop_dt (s : State) : s.raiseStop.dt = s.dt := rfl
@[simp] theorem State.raiseStop_st (s : State) : s.raiseStop.st = s.st := rfl
@[simp] theorem State.raiseStop_fb (s : State) : s.raiseStop.fb = s.fb := rfl
@[simp] theorem State.raiseStop_stop (s : State) : s.raiseStop.stop = true := rfl
@[simp] theorem State.raiseStop_inp (s : State) : s.raiseStop.inp = s.inp := rfl
@[simp] theorem State.raiseStop_clock (s : State) : s.raiseStop.clock = s.clock := rfl
@[simp] theorem State.raiseStop_reg (s : State) (r : Reg) : s.raiseStop.reg r = s.reg r := rfl

/-! ### `State.placeAtPc` -/

@[simp] theorem State.placeAtPc_mem (s : State) (w : Word) : (s.placeAtPc w).mem = (s.mem.write s.pc.toNat w.hiByte).write (s.pc.toNat + 1) w.loByte := rfl
@[simp] theorem State.placeAtPc_v (s : State) (w : Word) : (s.placeAtPc w).v = s.v := rfl
@[simp] theorem State.placeAtPc_i (s : State) (w : Word) : (s.placeAtPc w).i = s.i := rfl
@[simp] theorem State.placeAtPc_pc (s : State) (w : Word) : (s.placeAtPc w).pc = s.pc := rfl
@[simp] theorem State.placeAtPc_stack (s : State) (w : Word) : (s.placeAtPc w).stack = s.stack := rfl
@[simp] theorem State.placeAtPc_dt (s : State) (w : Word) : (s.placeAtPc w).dt = s.dt := rfl
@[simp] theorem State.placeAtPc_st (s : State) (w : Word) : (s.placeAtPc w).st = s.st := rfl
@[simp] theorem State.placeAtPc_fb (s : State) (w : Word) : (s.placeAtPc w).fb = s.fb := rfl
@[simp] theorem State.placeAtPc_status (s : State) (w : Word) : (s.placeAtPc w).status = s.status := rfl
@[simp] theorem State.placeAtPc_stop (s : State) (w : Word) : (s.placeAtPc w).stop = s.stop := rfl
@[simp] theorem State.placeAtPc_inp (s : State) (w : Word) : (s.placeAtPc w).inp = s.inp := rfl
@[simp] theorem State.placeAtPc_clock (s : State) (w : Word) : (s.placeAtPc w).clock = s.clock := rfl
@[simp] theorem State.placeAtPc_reg (s : State) (w : Word) (r : Reg) : (s.placeAtPc w).reg r = s.reg r := rfl

/-! ### `State.readyToFetch` -/

@[simp] theorem State.readyToFetch_mem (s : State) : s.readyToFetch.mem = s.mem := rfl
@[simp] theorem State.readyToFetch_v (s : State) : s.readyToFetch.v = s.v := rfl
@[simp] theorem State.readyToFetch_i (s : State) : s.readyToFetch.i = s.i := rfl
@[simp] theorem State.readyToFetch_stack (s : State) : s.readyToFetch.stack = s.stack := rfl
@[simp] theorem State.readyToFetch_dt (s : State) : s.readyToFetch.dt = s.dt := rfl
@[simp] theorem State.readyToFetch_st (s : State) : s.readyToFetch.st = s.st := rfl
@[simp] theorem State.readyToFetch_fb (s : State) : s.readyToFetch.fb = s.fb := rfl
@[simp] theorem State.readyToFetch_status (s : State) : s.readyToFetch.status = .running := rfl
@[simp] theorem State.readyToFetch_stop (s : State) : s.readyToFetch.stop = false := rfl
@[simp] theorem State.readyToFetch_inp (s : State) : s.readyToFetch.inp = s.inp := rfl
@[simp] theorem State.readyToFetch_clock (s : State) : s.readyToFetch.clock = s.clock := rfl
@[simp] theorem State.readyToFetch_reg (s : State) (r : Reg) : s.readyToFetch.reg r = s.reg r := rfl

/-! ### The general registers -/

/-- Read after write: the written register has the value, every other one keeps its own. -/
@[simp] theorem State.setReg_reg (s : State) (x : Reg) (b : Byte) (r : Reg) :
    (s.setReg x b).reg r = if r = x then b else s.reg r := by
  simp only [State.reg, State.setReg, Vector.getElem_set, BitVec.toNat_inj, eq_comm]

/-- A result and then a flag: VF ends as the flag, whatever register the result went to (R35, R203). -/
@[simp] theorem State.setRegFlag_reg (s : State) (x : Reg) (b : Byte) (f : Bool) (r : Reg) :
    (s.setRegFlag x b f).reg r = if r = VF then flagByte f else if r = x then b else s.reg r := by
  simp [State.setRegFlag]

/-- The registers decide the register file. -/
theorem State.v_ext {s t : State} (h : ∀ r, s.reg r = t.reg r) : s.v = t.v := by
  apply Vector.ext
  intro k hk
  have := h (BitVec.ofNat 4 k)
  simpa [State.reg, Nat.mod_eq_of_lt hk] using this

/-- At reset every register is 0 (R31, R323). -/
@[simp] theorem State.reset_reg (r : Reg) : State.reset.reg r = 0#8 := by
  simp [State.reg, State.reset]

/-- A skip changes PC and nothing else. -/
theorem State.skipIf_eq (s : State) (c : Bool) :
    s.skipIf c = s.setPc (if c then s.pc + 2#16 else s.pc) := by
  cases c <;> rfl

/-- A checked access gives the given state when its range is legal. -/
theorem State.accessing_legal {s : State} {n : Nat} (w : Word) (t : State) (h : s.rangeIllegal n = false) :
    s.accessing n w t = t := by
  simp [State.accessing, h]

/-- A checked access raises MemoryOutOfBounds when its range is illegal. -/
theorem State.accessing_illegal {s : State} {n : Nat} (w : Word) (t : State) (h : s.rangeIllegal n = true) :
    s.accessing n w t = s.raise .memoryOutOfBounds (some w) (some s.firstIllegal) := by
  simp [State.accessing, h]

/-- Everything a checked access can do. -/
theorem State.accessing_cases (s : State) (n : Nat) (w : Word) (t : State) :
    (s.rangeIllegal n = false ∧ s.accessing n w t = t) ∨
    (s.rangeIllegal n = true ∧
      s.accessing n w t = s.raise .memoryOutOfBounds (some w) (some s.firstIllegal)) := by
  cases h : s.rangeIllegal n
  · exact .inl ⟨rfl, State.accessing_legal w t h⟩
  · exact .inr ⟨rfl, State.accessing_illegal w t h⟩

/-- The range check in numbers (R75). -/
theorem State.rangeIllegal_iff (s : State) (n : Nat) :
    s.rangeIllegal n = true ↔ 0 < n ∧ 0x1000 < s.i.toNat + n := by
  simp only [State.rangeIllegal, decide_eq_true_eq]; omega

/-- The first illegal address in numbers: max(I, 0x1000) (R75). -/
theorem State.firstIllegal_toNat (s : State) : s.firstIllegal.toNat = max s.i.toNat 0x1000 := by
  unfold State.firstIllegal
  split
  · simp; omega
  · omega

/-- A loaded register file: the registers up to `x` hold the bytes from I on, those above keep their values
(R225). -/
theorem State.loadRegs_reg (s : State) (x r : Reg) :
    (s.loadRegs x).reg r = if r.toNat ≤ x.toNat then s.mem.read (s.i.toNat + r.toNat) else s.reg r := by
  suffices h : ∀ n, n ≤ 16 → ((List.range n).foldl
      (fun t k => t.setReg (BitVec.ofNat 4 k) (s.mem.read (s.dataAddr k))) s).reg r
        = if r.toNat < n then s.mem.read (s.i.toNat + r.toNat) else s.reg r by
    have := h (x.toNat + 1) (by omega)
    simpa [State.loadRegs, Nat.lt_succ_iff] using this
  intro n
  induction n with
  | zero => simp
  | succ n ih =>
    intro hn
    rw [List.range_succ, List.foldl_append]
    simp only [List.foldl_cons, List.foldl_nil, State.setReg_reg]
    rw [ih (by omega)]
    have hr : r = BitVec.ofNat 4 n ↔ r.toNat = n := by
      rw [← BitVec.toNat_inj, BitVec.toNat_ofNat, Nat.mod_eq_of_lt (by omega)]
    by_cases h : r.toNat = n
    · simp [hr, h, State.dataAddr]
    · have : r.toNat < n + 1 ↔ r.toNat < n := by omega
      simp [hr, h, this]

/-- A load changes the register file and nothing else (R225, R226). -/
theorem State.loadRegs_eq (s : State) (x : Reg) : s.loadRegs x = { s with v := (s.loadRegs x).v } := by
  unfold State.loadRegs
  generalize List.range (x.toNat + 1) = l
  suffices h : ∀ t : State, (l.foldl (fun t k => t.setReg (BitVec.ofNat 4 k) (s.mem.read (s.dataAddr k))) t)
      = { t with v := (l.foldl (fun t k => t.setReg (BitVec.ofNat 4 k) (s.mem.read (s.dataAddr k))) t).v } from h s
  induction l with
  | nil => intro t; rfl
  | cons k l ih => intro t; rw [List.foldl_cons, ih]; rfl

end Sys2Proof.Machine
end

