-- ==== Sys2Proof/Laws/Timers.lean ====
section
/-! SUPPORT. The laws of the timers: what one countdown and many leave of a timer, in numbers, and what a tick leaves
unchanged. -/

namespace Sys2Proof.Machine

theorem countOne_toNat (t : Byte) : (countOne t).toNat = t.toNat - 1 := by
  unfold countOne
  split
  · next h => simp [h]
  · next h =>
    have : t.toNat ≠ 0 := fun h' => h (BitVec.eq_of_toNat_eq (by simpa using h'))
    rw [BitVec.toNat_sub_of_le (by bv_omega)]
    simp

theorem countMany_toNat (k : Nat) (t : Byte) : (countMany k t).toNat = t.toNat - k := by
  unfold countMany
  split
  · next h => simp [h]
  · rw [BitVec.toNat_ofNat, Nat.mod_eq_of_lt (by omega)]

@[simp] theorem countMany_zero (t : Byte) : countMany 0 t = t :=
  BitVec.eq_of_toNat_eq (by simp [countMany_toNat])

/-- With the stop flag clear both timers count down and nothing else changes (R300). -/
theorem State.tickMany_running {s : State} (h : s.stop = false) (k : Nat) :
    s.tickMany k = (s.setDt (countMany k s.dt)).setSt (countMany k s.st) := by
  simp [State.tickMany, h]

/-- With the stop flag raised no tick happens (R311). -/
theorem State.tickMany_stopped {s : State} (h : s.stop = true) (k : Nat) : s.tickMany k = s := by
  simp [State.tickMany, h]

/-- Everything ticks can do: they change DT and ST alone. -/
theorem State.tickMany_eq (s : State) (k : Nat) :
    s.tickMany k = { s with dt := (s.tickMany k).dt, st := (s.tickMany k).st } := by
  unfold State.tickMany
  split <;> rfl

theorem State.elapse_eq (s : State) : s.elapse = { s with dt := s.elapse.dt, st := s.elapse.st } :=
  s.tickMany_eq s.ticks

@[simp] theorem State.elapse_mem (s : State) : s.elapse.mem = s.mem := by rw [s.elapse_eq]
@[simp] theorem State.elapse_v (s : State) : s.elapse.v = s.v := by rw [s.elapse_eq]
@[simp] theorem State.elapse_i (s : State) : s.elapse.i = s.i := by rw [s.elapse_eq]
@[simp] theorem State.elapse_pc (s : State) : s.elapse.pc = s.pc := by rw [s.elapse_eq]
@[simp] theorem State.elapse_stack (s : State) : s.elapse.stack = s.stack := by rw [s.elapse_eq]
@[simp] theorem State.elapse_fb (s : State) : s.elapse.fb = s.fb := by rw [s.elapse_eq]
@[simp] theorem State.elapse_status (s : State) : s.elapse.status = s.status := by rw [s.elapse_eq]
@[simp] theorem State.elapse_stop (s : State) : s.elapse.stop = s.stop := by rw [s.elapse_eq]
@[simp] theorem State.elapse_inp (s : State) : s.elapse.inp = s.inp := by rw [s.elapse_eq]
@[simp] theorem State.elapse_clock (s : State) : s.elapse.clock = s.clock := by rw [s.elapse_eq]
@[simp] theorem State.elapse_fetchWord (s : State) : s.elapse.fetchWord = s.fetchWord := by rw [s.elapse_eq]; rfl

/-- A timer never rises by ticks (R42, R300). -/
theorem State.elapse_dt_le (s : State) : s.elapse.dt.toNat ≤ s.dt.toNat := by
  cases h : s.stop <;> simp [State.elapse, State.tickMany, h, countMany_toNat]

end Sys2Proof.Machine
end

