-- ==== Sys2Proof/Laws/Step.lean ====
section
/-! SUPPORT. What a step can do, said once: every meaning answers a next state, and a step request is answered by one
of the cases of `step_cases`. Proofs cite these and do not unfold `step`. -/

namespace Sys2Proof.Machine

/-- Every instruction answers a next state, in every state (R144, R146). -/
theorem exec_next (i : Instr) (s : State) : ∃ t, exec i s = .next t := by
  cases i <;> exact ⟨_, rfl⟩

/-- An engine step answers a next state, in every state (R146). -/
theorem engineStep_next (s : State) : ∃ t, engineStep s = .next t := by
  unfold engineStep
  split
  · exact ⟨_, rfl⟩
  · split
    · exact ⟨_, rfl⟩
    · exact exec_next _ _

/-- Everything an engine step can do: the fetch fault, the Unknown fault, or the decoded instruction. -/
theorem engineStep_cases {s t : State} (h : engineStep s = .next t) :
    (∃ cause, fetchFault s.pc = some cause ∧ t = s.raise cause none none) ∨
    (fetchFault s.pc = none ∧ ∃ w, decode s.fetchWord = .unknown w ∧ t = s.raise .unknownOpcode (some w) none) ∨
    (fetchFault s.pc = none ∧ ∃ i, decode s.fetchWord = .named i ∧ exec i s = .next t) := by
  unfold engineStep at h
  split at h
  · next c hc => exact .inl ⟨c, hc, (Host.Outcome.next.inj h).symm⟩
  · next hn =>
    split at h
    · next w hw => exact .inr (.inl ⟨hn, w, hw, (Host.Outcome.next.inj h).symm⟩)
    · next i hi => exact .inr (.inr ⟨hn, i, hi, h⟩)

/-- A step of a Running state: the ticks before it, the engine step, its inputs consumed. -/
theorem step_running {s : State} (h : s.status = .running) : step s = settle (engineStep s.elapse) := by
  simp [step, h]

/-- Everything a step that answers a next state can do. -/
theorem step_cases {s t : State} (h : step s = .next t) :
    s.status = .running ∧ ∃ u, engineStep s.elapse = .next u ∧ t = u.consume := by
  unfold step at h
  split at h
  · next hr =>
    obtain ⟨u, hu⟩ := engineStep_next s.elapse
    rw [hu] at h
    exact ⟨hr, u, hu, (Host.Outcome.next.inj h).symm⟩
  · cases h
  · cases h

/-- The fetch checks in numbers (R141): the window first, then alignment. -/
theorem fetchFault_none_iff (a : Word) :
    fetchFault a = none ↔ 0x200 ≤ a.toNat ∧ a.toNat ≤ 0xFFE ∧ a.toNat % 2 = 0 := by
  unfold fetchFault
  split
  · simp; omega
  · split
    · simp; omega
    · simp; omega

/-- The fetched word in numbers: the byte at PC is the high one (R70). -/
theorem State.fetchWord_toNat (s : State) :
    s.fetchWord.toNat = (s.mem.read s.pc.toNat).toNat * 256 + (s.mem.read (s.pc.toNat + 1)).toNat :=
  wordOfBytes_toNat _ _

/-- A placed word is what the next fetch reads (R70). -/
theorem State.placeAtPc_fetchWord (s : State) (w : Word) : (s.placeAtPc w).fetchWord = w := by
  simp [State.fetchWord, Memory.read_write]

end Sys2Proof.Machine
end

