-- ==== Sys2Proof/Tests/Slice0.lean ====
section
/-! SUPPORT. The model's own tests. Expected results come from the spec's worked examples and vectors
(spec/95_test_vectors.md, the id in each docstring) or from the encodings of R112, never from the model. The last part
has one named witness, or more, for the hypotheses of each statement that has any. -/

namespace Sys2Proof.Tests

open Sys2Proof Sys2Proof.Machine

-- One theorem after the other: with all of them waiting for the kernel at once, Lean runs out of threads.
set_option Elab.async false

/-! ### Well-formedness: an ill-formed term for each check -/

/-- The fields of 0xD12A (T-DEC-1). -/
theorem test_fields_accepted :
    FieldNumbers.wellFormed { op := 0xD, x := 1, y := 2, n := 0xA, nn := 0x2A, nnn := 0x12A } = true := by decide

theorem test_fields_op_refused :
    FieldNumbers.wellFormed { op := 16, x := 1, y := 2, n := 0xA, nn := 0x2A, nnn := 0x12A } = false := by decide

theorem test_fields_x_refused :
    FieldNumbers.wellFormed { op := 0xD, x := 16, y := 2, n := 0xA, nn := 0x2A, nnn := 0x102A } = false := by decide

theorem test_fields_y_refused :
    FieldNumbers.wellFormed { op := 0xD, x := 1, y := 16, n := 0xA, nn := 0x10A, nnn := 0x20A } = false := by decide

theorem test_fields_n_refused :
    FieldNumbers.wellFormed { op := 0xD, x := 1, y := 2, n := 16, nn := 48, nnn := 304 } = false := by decide

theorem test_fields_nn_refused :
    FieldNumbers.wellFormed { op := 0xD, x := 1, y := 2, n := 0xA, nn := 0x2B, nnn := 0x12B } = false := by decide

theorem test_fields_nnn_refused :
    FieldNumbers.wellFormed { op := 0xD, x := 1, y := 2, n := 0xA, nn := 0x2A, nnn := 0x22A } = false := by decide

/-- T-RST-2, T-RST-3, and the empty ROM (D31). -/
theorem test_rom_length : romWellFormed (List.replicate 3584 0#8) = true ∧
    romWellFormed (List.replicate 3585 0#8) = false ∧ romWellFormed [] = true := by
  unfold romWellFormed
  rw [List.length_replicate, List.length_replicate]
  decide

/-- R10: FONT_BASE + 80 ≤ 0x200. -/
theorem test_font_base : fontBaseWellFormed 432 = true ∧ fontBaseWellFormed 433 = false := by decide

/-- R10, GK3: FONT_DATA is 80 bytes. -/
theorem test_font_length : Config.suggestedFont.length = 80 := by decide

/-! ### Decoding: a word of every constructor, written out from its row in R112 -/

theorem test_decode_control_flow :
    decode 0b0000000011101110#16 = .named .ret ∧
    decode 0b0001001000110100#16 = .named (.jump 0x234#12) ∧
    decode 0b0010001100000000#16 = .named (.call 0x300#12) ∧
    decode 0b0011010101000010#16 = .named (.skipEqImm 0x5#4 0x42#8) ∧
    decode 0b0100010101000010#16 = .named (.skipNeImm 0x5#4 0x42#8) ∧
    decode 0b0101000100101111#16 = .named (.skipEqReg 0x1#4 0x2#4 0xF#4) ∧
    decode 0b1001000100101111#16 = .named (.skipNeReg 0x1#4 0x2#4 0xF#4) ∧
    decode 0b1011010111111111#16 = .named (.jumpWithOffset 0x5FF#12) := by decide

theorem test_decode_alu :
    decode 0b0110101000101111#16 = .named (.setReg 0xA#4 0x2F#8) ∧
    decode 0b0111111100000011#16 = .named (.addToReg 0xF#4 0x03#8) ∧
    decode 0b1000000100100000#16 = .named (.set 0x1#4 0x2#4) ∧
    decode 0b1000000100100001#16 = .named (.or 0x1#4 0x2#4) ∧
    decode 0b1000000100100010#16 = .named (.and 0x1#4 0x2#4) ∧
    decode 0b1000000100100011#16 = .named (.xor 0x1#4 0x2#4) ∧
    decode 0b1000000100100100#16 = .named (.add 0x1#4 0x2#4) ∧
    decode 0b1000000100100101#16 = .named (.subtract 0x1#4 0x2#4) ∧
    decode 0b1000000100100110#16 = .named (.shiftRight 0x1#4 0x2#4) ∧
    decode 0b1000000100100111#16 = .named (.subtractReverse 0x1#4 0x2#4) ∧
    decode 0b1000000100101110#16 = .named (.shiftLeft 0x1#4 0x2#4) ∧
    decode 0b1100001100001111#16 = .named (.random 0x3#4 0x0F#8) := by decide

theorem test_decode_index_memory :
    decode 0b1010001100000000#16 = .named (.setIndex 0x300#12) ∧
    decode 0b1111000100011110#16 = .named (.addToIndex 0x1#4) ∧
    decode 0b1111010100101001#16 = .named (.getFontChar 0x5#4) ∧
    decode 0b1111000100110011#16 = .named (.bcdConversion 0x1#4) ∧
    decode 0b1111001101010101#16 = .named (.store 0x3#4) ∧
    decode 0b1111001101100101#16 = .named (.load 0x3#4) := by decide

theorem test_decode_timers_keys :
    decode 0b1111000100010101#16 = .named (.setDelayTimer 0x1#4) ∧
    decode 0b1111001000011000#16 = .named (.setSoundTimer 0x2#4) ∧
    decode 0b1111010000000111#16 = .named (.readDelayTimer 0x4#4) ∧
    decode 0b1110000010011110#16 = .named (.skipKeyPressed 0x0#4) ∧
    decode 0b1110000010100001#16 = .named (.skipKeyNotPressed 0x0#4) ∧
    decode 0b1111001100001010#16 = .named (.waitForKeypress 0x3#4) := by decide

theorem test_decode_display :
    decode 0b0000000011100000#16 = .named .clearScreen ∧
    decode 0b1101000100101010#16 = .named (.draw 0x1#4 0x2#4 0xA#4) := by decide

/-- T-DEC-2, 5, 6, 10, 11. -/
theorem test_decode_unknown : ([0x0000#16, 0x00E1#16, 0x01EE#16, 0x0123#16, 0x0FFF#16, 0x8008#16, 0x8009#16,
    0x800D#16, 0x800F#16, 0xE09F#16, 0xE0A0#16, 0xE000#16, 0xF000#16, 0xF008#16, 0xF0FF#16, 0xF075#16, 0xF01F#16] : List Word).all
    (fun w => decode w == .unknown w) = true := by decide

/-- R70: the first byte of a word is the high one, which the table's numbering agrees with for one-word rows. -/
theorem test_table_word : decodeTableWord 16 0x8124 = some (.add 0x1#4 0x2#4) ∧ decodeTableWord 16 0x8008 = none := by
  decide

/-! ### One step of each instruction -/

/-- The reset state with some registers set, no key pressed, and no tick before the step. -/
def regs (vals : List (Reg × Byte)) : State :=
  { vals.foldl (fun s p => s.setReg p.1 p.2) State.reset with
    inp := { keys := some (Vector.replicate 16 false), rand := some 0xB7#8, pick := some 0, ticks := some 0 } }

/-- The same with I set. -/
def regsI (i : Word) (vals : List (Reg × Byte)) : State := (regs vals).setI i

/-- One step on the word `w`, and what must hold of the state after it. -/
def runs (w : Nat) (s : State) (p : State → Bool) : Bool :=
  match step (s.withFetchWord 16 w) with
  | .next t => p t
  | _ => false

/-- The status after a fault at 0x200. -/
def faulted (cause : Cause) (word info : Option Word) : Status :=
  .faulted { cause := cause, addr := 0x200#16, word := word, info := info }

/-- T-CF-1. -/
theorem test_jump : runs 0x1234 (regs []) (fun t => t.pc == 0x234#16) = true := by decide +kernel

/-- T-CF-6: not masked to 12 bits. -/
theorem test_jump_with_offset_wide : runs 0xBFFF (regs [(0x0, 0xFF)]) (fun t => t.pc == 0x10FE#16) = true := by
  decide +kernel

/-- T-CF-8: V0, not V[x]. -/
theorem test_jump_with_offset_v0 : runs 0xB500 (regs [(0x5, 0x40)]) (fun t => t.pc == 0x500#16) = true := by
  decide +kernel

/-- T-CF-9. -/
theorem test_call : runs 0x2300 (regs []) (fun t => t.pc == 0x300#16 && t.stack == [0x202#16]) = true := by
  decide +kernel

/-- T-CF-11 (at 0x200). -/
theorem test_call_full : runs 0x2400 ((regs []).setStack (List.replicate 16 0x202#16))
    (fun t => t.pc == 0x200#16 && t.stack.length == 16 && t.status == faulted .stackOverflow (some 0x2400#16) none)
    = true := by decide +kernel

/-- T-CF-12. -/
theorem test_return : runs 0x00EE ((regs []).setStack [0x40A#16, 0x202#16])
    (fun t => t.pc == 0x40A#16 && t.stack == [0x202#16]) = true := by decide +kernel

/-- T-CF-13. -/
theorem test_return_empty : runs 0x00EE (regs [])
    (fun t => t.pc == 0x200#16 && t.status == faulted .stackUnderflow (some 0x00EE#16) none) = true := by
  decide +kernel

/-- T-CF-15. -/
theorem test_skip_eq_imm : runs 0x3342 (regs [(0x3, 0x42)]) (fun t => t.pc == 0x204#16) = true := by decide +kernel

/-- T-CF-16. -/
theorem test_skip_eq_imm_not : runs 0x3343 (regs [(0x3, 0x42)]) (fun t => t.pc == 0x202#16) = true := by decide +kernel

/-- T-CF-17. -/
theorem test_skip_ne_imm_not : runs 0x4342 (regs [(0x3, 0x42)]) (fun t => t.pc == 0x202#16) = true := by decide +kernel

/-- T-CF-18. -/
theorem test_skip_ne_imm : runs 0x4300 (regs [(0x3, 0x42)]) (fun t => t.pc == 0x204#16) = true := by decide +kernel

/-- T-CF-21: n is ignored. -/
theorem test_skip_eq_reg : runs 0x5121 (regs [(0x1, 7), (0x2, 7)]) (fun t => t.pc == 0x204#16) = true := by
  decide +kernel

/-- T-CF-23. -/
theorem test_skip_ne_reg : runs 0x9120 (regs [(0x1, 7), (0x2, 8)]) (fun t => t.pc == 0x204#16) = true := by
  decide +kernel

/-- T-CF-24. -/
theorem test_skip_ne_reg_same : runs 0x9110 (regs [(0x1, 7)]) (fun t => t.pc == 0x202#16) = true := by decide +kernel

/-- T-ALU-1. -/
theorem test_set_reg : runs 0x6A2F (regs []) (fun t => t.reg 0xA == 0x2F#8 && t.pc == 0x202#16) = true := by
  decide +kernel

/-- T-ALU-2. -/
theorem test_add_to_reg : runs 0x7003 (regs [(0x0, 0xFE), (0xF, 0x55)])
    (fun t => t.reg 0x0 == 0x01#8 && t.reg 0xF == 0x55#8) = true := by decide +kernel

/-- T-ALU-3. -/
theorem test_add_to_reg_vf : runs 0x7FFF (regs []) (fun t => t.reg 0xF == 0xFF#8) = true := by decide +kernel

/-- T-ALU-4. -/
theorem test_set : runs 0x8120 (regs [(0x2, 0x99), (0xF, 0x55)])
    (fun t => t.reg 0x1 == 0x99#8 && t.reg 0xF == 0x55#8) = true := by decide +kernel

/-- T-ALU-5. -/
theorem test_or : runs 0x8121 (regs [(0x1, 0xF0), (0x2, 0x0F), (0xF, 0x55)])
    (fun t => t.reg 0x1 == 0xFF#8 && t.reg 0xF == 0x55#8) = true := by decide +kernel

/-- T-ALU-6. -/
theorem test_and : runs 0x8122 (regs [(0x1, 0xF0), (0x2, 0x3C), (0xF, 0x55)])
    (fun t => t.reg 0x1 == 0x30#8 && t.reg 0xF == 0x55#8) = true := by decide +kernel

/-- T-ALU-7. -/
theorem test_xor : runs 0x8123 (regs [(0x1, 0xF0), (0x2, 0x3C), (0xF, 0x55)])
    (fun t => t.reg 0x1 == 0xCC#8 && t.reg 0xF == 0x55#8) = true := by decide +kernel

/-- T-ALU-10. -/
theorem test_add_carry : runs 0x8014 (regs [(0x0, 0x80), (0x1, 0x80)])
    (fun t => t.reg 0x0 == 0x00#8 && t.reg 0xF == 1#8) = true := by decide +kernel

/-- T-ALU-17: the flag is written last. -/
theorem test_add_vf : runs 0x8F14 (regs [(0xF, 0xFF), (0x1, 0x01)]) (fun t => t.reg 0xF == 1#8) = true := by
  decide +kernel

/-- L1-5. -/
theorem test_subtract : runs 0x8125 (regs [(0x1, 0x03), (0x2, 0x05), (0xF, 0x55)])
    (fun t => t.reg 0x1 == 0xFE#8 && t.reg 0xF == 0#8) = true := by decide +kernel

/-- T-ALU-9: equal operands, a strict comparison. -/
theorem test_subtract_equal : runs 0x8015 (regs [(0x0, 0x07), (0x1, 0x07), (0xF, 0x55)])
    (fun t => t.reg 0x0 == 0#8 && t.reg 0xF == 0#8) = true := by decide +kernel

/-- T-ALU-13. -/
theorem test_subtract_reverse : runs 0x8237 (regs [(0x2, 0x03), (0x3, 0x05), (0xF, 0x55)])
    (fun t => t.reg 0x2 == 0x02#8 && t.reg 0xF == 1#8) = true := by decide +kernel

/-- T-ALU-14. -/
theorem test_subtract_reverse_borrow : runs 0x8237 (regs [(0x2, 0x05), (0x3, 0x03), (0xF, 0x55)])
    (fun t => t.reg 0x2 == 0xFE#8 && t.reg 0xF == 0#8) = true := by decide +kernel

/-- T-ALU-19: y is not read and not written. -/
theorem test_shift_right : runs 0x8126 (regs [(0x1, 0x81), (0x2, 0xFF), (0xF, 0x55)])
    (fun t => t.reg 0x1 == 0x40#8 && t.reg 0x2 == 0xFF#8 && t.reg 0xF == 1#8) = true := by decide +kernel

/-- T-ALU-21. -/
theorem test_shift_right_vf : runs 0x8F06 (regs [(0xF, 0x01)]) (fun t => t.reg 0xF == 1#8) = true := by decide +kernel

/-- T-ALU-22. -/
theorem test_shift_left : runs 0x840E (regs [(0x4, 0x81), (0xF, 0x55)])
    (fun t => t.reg 0x4 == 0x02#8 && t.reg 0xF == 1#8) = true := by decide +kernel

/-- T-ALU-25. -/
theorem test_shift_left_vf : runs 0x8F0E (regs [(0xF, 0x01)]) (fun t => t.reg 0xF == 0#8) = true := by decide +kernel

/-- T-ALU-26. -/
theorem test_random : runs 0xC30F (regs [(0xF, 0x55)]) (fun t => t.reg 0x3 == 0x07#8 && t.reg 0xF == 0x55#8) = true := by
  decide +kernel

/-- T-MEM-1. -/
theorem test_set_index : runs 0xA300 (regs []) (fun t => t.i == 0x300#16) = true := by decide +kernel

/-- T-MEM-2: past 0xFFF without flag or fault. -/
theorem test_add_to_index : runs 0xF01E (regsI 0x0FFF [(0x0, 0x01), (0xF, 0x55)])
    (fun t => t.i == 0x1000#16 && t.reg 0xF == 0x55#8 && t.status == .running) = true := by decide +kernel

/-- T-MEM-3. -/
theorem test_add_to_index_wraps : runs 0xF01E (regsI 0xFFFF [(0x0, 0x02)]) (fun t => t.i == 0x0001#16) = true := by
  decide +kernel

/-- T-MEM-4: the direct convention. -/
theorem test_get_font_char : runs 0xF529 (regs [(0x5, 0x0A)]) (fun t => t.i == 0x000A#16) = true := by decide +kernel

/-- L1-7. -/
theorem test_bcd : runs 0xF133 (regsI 0x300 [(0x1, 156)])
    (fun t => t.mem.readBytes 0x300 3 == [1#8, 5#8, 6#8] && t.i == 0x300#16) = true := by decide +kernel

/-- T-MEM-9. -/
theorem test_bcd_out_of_bounds : runs 0xF033 (regsI 0xFFE [(0x0, 7)])
    (fun t => t.mem.readBytes 0xFFE 2 == [0#8, 0#8] &&
      t.status == faulted .memoryOutOfBounds (some 0xF033#16) (some 0x1000#16)) = true := by decide +kernel

/-- T-MEM-10. -/
theorem test_store : runs 0xF355 (regsI 0x300 [(0x0, 0x11), (0x1, 0x22), (0x2, 0x33), (0x3, 0x44), (0x4, 0x99)])
    (fun t => t.mem.readBytes 0x300 5 == [0x11#8, 0x22#8, 0x33#8, 0x44#8, 0x00#8] && t.i == 0x300#16) = true := by
  decide +kernel

/-- R224, R75: with I = 0xFFE, V0 and V1 are the last legal range (T-MEM-12 says otherwise against the rules, log
entry 9), and V0 to V2 would go to 0x1000: the fault, with no partial write. -/
theorem test_store_bounds :
    runs 0xF155 (regsI 0xFFE [(0x0, 1), (0x1, 2)])
      (fun t => t.mem.readBytes 0xFFE 2 == [1#8, 2#8] && t.status == .running) = true ∧
    runs 0xF255 (regsI 0xFFE [(0x0, 1), (0x1, 2)])
      (fun t => t.mem.read 0xFFE == 0#8 &&
        t.status == faulted .memoryOutOfBounds (some 0xF255#16) (some 0x1000#16)) = true := by decide +kernel

/-- T-MEM-14. -/
theorem test_load : runs 0xF165
    ((regsI 0x300 [(0x0, 0x77), (0x1, 0x77), (0x2, 0x77)]).setMem (Memory.writeBytes [] 0x300 [0xAA, 0xBB]))
    (fun t => t.reg 0x0 == 0xAA#8 && t.reg 0x1 == 0xBB#8 && t.reg 0x2 == 0x77#8 && t.i == 0x300#16) = true := by
  decide +kernel

/-- T-MEM-15. -/
theorem test_load_out_of_bounds : runs 0xF065 (regsI 0x1005 [])
    (fun t => t.status == faulted .memoryOutOfBounds (some 0xF065#16) (some 0x1005#16)) = true := by decide +kernel

/-- T-TK-1. -/
theorem test_set_delay_timer : runs 0xF115 (regs [(0x1, 5)]) (fun t => t.dt == 5#8 && t.st == 0#8) = true := by
  decide +kernel

/-- T-TK-2. -/
theorem test_set_sound_timer : runs 0xF218 (regs [(0x2, 0x3C)]) (fun t => t.st == 0x3C#8 && t.dt == 0#8) = true := by
  decide +kernel

/-- T-TK-3. -/
theorem test_read_delay_timer : runs 0xF407 ((regs []).setDt 3) (fun t => t.reg 0x4 == 3#8 && t.dt == 3#8) = true := by
  decide +kernel

/-- T-TK-9: one tick between the two steps. -/
theorem test_read_delay_timer_after_tick :
    runs 0xF207 (((regs []).setDt 5).supply { (regs []).inp with ticks := some 1 }) (fun t => t.reg 0x2 == 4#8) = true := by
  decide +kernel

/-- T-TK-12, with the identity KEYMAP as a premise. -/
theorem test_skip_key_not_pressed (h : Config.keymap = Equiv.refl Slot) :
    ∃ t, exec (.skipKeyNotPressed 0x0) (regs [(0x0, 7)]) = .next t ∧ t.pc = 0x204#16 := by
  refine ⟨_, rfl, ?_⟩
  have hs : slot 7#8 = some 7 := by simp [slot, h]
  have hv : (regs [(0x0, 7)]).reg 0x0 = 7#8 := by decide +kernel
  unfold State.keySkip
  rw [hv, hs]
  decide +kernel

/-- T-TK-10, with the identity KEYMAP as a premise. -/
theorem test_skip_key_pressed (h : Config.keymap = Equiv.refl Slot) :
    ∃ t, exec (.skipKeyPressed 0x0) ((regs [(0x0, 7)]).supply
      { Inputs.free with keys := some ((Vector.replicate 16 false).set 7 true) }) = .next t ∧ t.pc = 0x204#16 := by
  refine ⟨_, rfl, ?_⟩
  have hs : slot 7#8 = some 7 := by simp [slot, h]
  unfold State.keySkip
  rw [show State.reg _ 0x0 = 7#8 from by decide +kernel, hs]
  decide +kernel

/-- T-TK-14. -/
theorem test_skip_key_pressed_out_of_range : runs 0xE09E (regs [(0x0, 0x10)])
    (fun t => t.status == faulted .keyIndexOutOfRange (some 0xE09E#16) (some 0x0010#16)) = true := by decide +kernel

/-- T-TK-15. -/
theorem test_skip_key_not_pressed_out_of_range : runs 0xE0A1 (regs [(0x0, 0xFF)])
    (fun t => t.status == faulted .keyIndexOutOfRange (some 0xE0A1#16) (some 0x00FF#16)) = true := by decide +kernel

/-- T-TK-16 (at 0x200). -/
theorem test_wait_no_key : runs 0xF30A (regs [(0x3, 0x77)])
    (fun t => t.pc == 0x200#16 && t.reg 0x3 == 0x77#8 && t.status == .running) = true := by decide +kernel

/-- T-TK-17 (at 0x200): only slot 0xB pressed. -/
theorem test_wait_one_key (h : Config.keymap = Equiv.refl Slot) :
    ∃ t, exec (.waitForKeypress 0x3) ((regs []).supply
      { Inputs.free with keys := some ((Vector.replicate 16 false).set 0xB true) }) = .next t ∧
      t.reg 0x3 = 0x0B#8 ∧ t.pc = 0x202#16 := by
  have hd : ∀ p, drawKey p (pressedSlots ((Vector.replicate 16 false).set 0xB true)) = some 0xB := by
    intro p
    rw [show pressedSlots ((Vector.replicate 16 false).set 0xB true) = [0xB] from by decide +kernel]
    simp [drawKey, Nat.mod_one]
  refine ⟨_, rfl, ?_⟩
  simp only [State.keys, State.supply, Inputs.free, Option.getD_some]
  rw [hd]
  have hk : keyOfSlot 0xB = 0x0B#8 := by simp [keyOfSlot, h]
  constructor
  · show State.reg (State.setReg _ 0x3 (keyOfSlot 0xB)) 0x3 = _
    rw [hk]; decide +kernel
  · rfl

/-- The pixels in which the two drawing tests differ from what a wrong draw would leave. -/
def pixels (s : State) : List Bool := [s.fb.pixel 0 0, s.fb.pixel 0 1, s.fb.pixel 60 0, s.fb.pixel 63 0]

/-- T-DSP-1. -/
theorem test_clear_screen : runs 0x00E0 ((regs [(0xF, 0x55)]).setFb (Framebuffer.blank.toggle 3 4))
    (fun t => !t.fb.pixel 3 4 && t.reg 0xF == 0x55#8) = true := by decide +kernel

/-- L1-8: clipped at the right edge, no wrap. -/
theorem test_draw_clips : runs 0xD011
    ((regsI 0x300 [(0x0, 60), (0xF, 0x55)]).setMem (Memory.writeBytes [] 0x300 [0xFF]))
    (fun t => pixels t == [false, false, true, true] && t.reg 0xF == 0#8) = true := by decide +kernel

/-- T-DSP-11: a collision in row 1 counts for the whole sprite. -/
theorem test_draw_collides : runs 0xD012
    (((regsI 0x300 []).setFb (Framebuffer.blank.toggle 0 1)).setMem (Memory.writeBytes [] 0x300 [0x00, 0x80]))
    (fun t => pixels t == [false, false, false, false] && t.reg 0xF == 1#8) = true := by decide +kernel

/-! ### The step, ticks and the host -/

/-- T-STP-1: big-endian. -/
theorem test_fetch_big_endian : ((regs []).setMem (Memory.writeBytes [] 0x200 [0x12, 0x34])).fetchWord = 0x1234#16 := by
  decide +kernel

/-- The cause a step from PC faults with, if it faults. -/
def causeAt (pc : Word) : Option Cause :=
  match step ((regs []).setPc pc) with
  | .next t => (match t.status with | .faulted rec => some rec.cause | _ => none)
  | _ => none

/-- T-STP-3, 4, 5, 6. -/
theorem test_fetch_checks : causeAt 0xFFF = some .fetchOutOfBounds ∧ causeAt 0x1FE = some .fetchOutOfBounds ∧
    causeAt 0x1000 = some .fetchOutOfBounds ∧ causeAt 0x203 = some .misalignedFetch := by decide +kernel

/-- T-STP-7 (at 0x200). -/
theorem test_unknown : runs 0x8008 (regs [])
    (fun t => t.pc == 0x200#16 && t.status == faulted .unknownOpcode (some 0x8008#16) none) = true := by decide +kernel

/-- T-TK-5, 6. -/
theorem test_tick : ((regs []).setSt 1).tick.st = 0#8 ∧ ((regs []).setSt 1).tick.dt = 0#8 ∧
    ((regs []).setDt 2).tick.dt = 1#8 := by decide +kernel

/-- T-TK-7. -/
theorem test_tick_stopped : ((regs []).setDt 2).raiseStop.tick.dt = 2#8 := by decide +kernel

/-- T-RST-1. -/
theorem test_load_rom : ∃ t, loadRom 0 [0x12, 0x00] = .ok t ∧ t.fetchWord = 0x1200#16 ∧ t.pc = 0x200#16 ∧
    t.mem.read 0x202 = 0#8 := ⟨_, rfl, by decide +kernel, rfl, by decide +kernel⟩

/-- T-RST-3. -/
theorem test_load_rom_too_large : loadRom 0 (List.replicate 3585 0#8) = .romTooLarge 3585 := by
  unfold loadRom
  rw [List.length_replicate, if_neg (by decide)]

/-! ### Witnesses: a concrete state and operands for the hypotheses of each statement that has any -/

/-- The end of a test state: what `exec` answers, where it is a next state. -/
def after (i : Instr) (s : State) : State :=
  match exec i s with
  | .next t => t
  | _ => s

theorem exec_after (i : Instr) (s : State) : exec i s = .next (after i s) := by
  obtain ⟨t, h⟩ := exec_next i s
  simp only [after, h]

/-- What `step` answers in a Running state. -/
def afterStep (s : State) : State :=
  match step s with
  | .next t => t
  | _ => s

theorem step_afterStep {s : State} (h : s.status = .running) : step s = .next (afterStep s) := by
  obtain ⟨t, ht⟩ := engineStep_next s.elapse
  simp only [afterStep, step_running h, ht, settle]

theorem witness_DecodeOfEncodeIsTheInstruction : Instr.wellFormed (.draw 0xF 0xF 0xF) = true ∧
    Instr.wellFormed (.jump 0xFFF) = true ∧ Instr.wellFormed (.setReg 0x0 0xFF) = true := by decide

theorem witness_EncodeOfDecodedIsTheWord : decode 0x5121#16 = .named (.skipEqReg 0x1 0x2 0x1) := by decide

theorem witness_UnknownIsExactlyTheUnnamedWords : decode 0x00E1#16 = .unknown 0x00E1#16 := by decide

theorem witness_EveryWordMatchesAtMostOneRow :
    decode 0x00E0#16 = .named .clearScreen ∧ decode 0x800F#16 = .unknown 0x800F#16 := by decide

theorem witness_StepRunsTheDecodedInstruction : ((regs []).withFetchWord 16 0x8124).ready ∧
    Instr.wellFormed (.add 0x1 0x2) = true ∧
    decode ((regs []).withFetchWord 16 0x8124).fetchWord = .named (.add 0x1 0x2) :=
  ⟨⟨rfl, by decide +kernel⟩, by decide, by decide +kernel⟩

/-- The clauses meet at 0x1FF and 0x200, 0xFFE and 0xFFF; an odd PC outside the window falls under the first alone. -/
theorem witness_FetchChecksInOrder : (regs []).status = .running ∧
    [0x1FF#16, 0x1FE#16, 0xFFF#16, 0x1000#16, 0xFFFF#16].all (fun pc =>
      decide (((regs []).setPc pc).pc.toNat < 0x200 ∨ 0xFFE < ((regs []).setPc pc).pc.toNat)) = true ∧
    [0x201#16, 0xFFD#16].all (fun pc =>
      decide (0x200 ≤ ((regs []).setPc pc).pc.toNat ∧ ((regs []).setPc pc).pc.toNat ≤ 0xFFE ∧
        ((regs []).setPc pc).pc.toNat % 2 = 1)) = true := by decide +kernel

theorem witness_StepOnUnknownWordFaults : (regs []).ready ∧ ∀ i, decode (regs []).fetchWord ≠ .named i := by
  refine ⟨⟨rfl, by decide +kernel⟩, ?_⟩
  rw [show decode (regs []).fetchWord = .unknown 0#16 from by decide +kernel]
  intro i h
  cases h

theorem witness_StepIsEnabledExactlyWhenRunning : State.reset.status = .running ∧
    (State.reset.raise .stackUnderflow none none).status = faulted .stackUnderflow none none ∧
    State.reset.raiseStop.status = .stopped := ⟨rfl, rfl, rfl⟩

theorem witness_FaultOfAnInstructionIsPrecise : (regs []).status = .running ∧
    exec .ret (regs []) = .next (after .ret (regs [])) ∧
    (after .ret (regs [])).status = faulted .stackUnderflow (some 0x00EE#16) none :=
  ⟨rfl, exec_after _ _, by decide +kernel⟩

theorem witness_FaultOfAStepIsPrecise : step (regs []) = .next (afterStep (regs [])) ∧
    (afterStep (regs [])).status = faulted .unknownOpcode (some 0#16) none :=
  ⟨step_afterStep rfl, by decide +kernel⟩

theorem witness_EachKindRaisesItsOneCause : (regs []).status = .running ∧
    exec .ret (regs []) = .next (after .ret (regs [])) := ⟨rfl, exec_after _ _⟩

/-- The hypothesis of `DecodesAs`, for some words. -/
def fits (mask row : Word) (words : List Word) : Bool := words.all (fun w => w &&& mask == row)

/-- The words at both ends of each layout of control flow. -/
theorem witness_DecodesAs_control_flow :
    fits 0xF000#16 0x1000#16 [0x1000#16, 0x1FFF#16] ∧
    fits 0xF000#16 0xB000#16 [0xB000#16, 0xBFFF#16] ∧
    fits 0xF000#16 0x2000#16 [0x2000#16, 0x2FFF#16] ∧
    0x00EE#16 &&& 0xFFFF#16 = 0x00EE#16 ∧
    fits 0xF000#16 0x3000#16 [0x3000#16, 0x3FFF#16] ∧
    fits 0xF000#16 0x4000#16 [0x4000#16, 0x4FFF#16] ∧
    fits 0xF000#16 0x5000#16 [0x5000#16, 0x5FFF#16] ∧
    fits 0xF000#16 0x9000#16 [0x9000#16, 0x9FFF#16] := by decide

/-- The words at both ends of each layout of the register operations. -/
theorem witness_DecodesAs_alu :
    fits 0xF000#16 0x6000#16 [0x6000#16, 0x6FFF#16] ∧
    fits 0xF000#16 0x7000#16 [0x7000#16, 0x7FFF#16] ∧
    fits 0xF00F#16 0x8000#16 [0x8000#16, 0x8FF0#16] ∧
    fits 0xF00F#16 0x8001#16 [0x8001#16, 0x8FF1#16] ∧
    fits 0xF00F#16 0x8002#16 [0x8002#16, 0x8FF2#16] ∧
    fits 0xF00F#16 0x8003#16 [0x8003#16, 0x8FF3#16] ∧
    fits 0xF00F#16 0x8004#16 [0x8004#16, 0x8FF4#16] ∧
    fits 0xF00F#16 0x8005#16 [0x8005#16, 0x8FF5#16] ∧
    fits 0xF00F#16 0x8006#16 [0x8006#16, 0x8FF6#16] ∧
    fits 0xF00F#16 0x8007#16 [0x8007#16, 0x8FF7#16] ∧
    fits 0xF00F#16 0x800E#16 [0x800E#16, 0x8FFE#16] ∧
    fits 0xF000#16 0xC000#16 [0xC000#16, 0xCFFF#16] := by decide

/-- The words at both ends of each layout of the other three families. -/
theorem witness_DecodesAs_other :
    fits 0xF000#16 0xA000#16 [0xA000#16, 0xAFFF#16] ∧
    fits 0xF0FF#16 0xF01E#16 [0xF01E#16, 0xFF1E#16] ∧
    fits 0xF0FF#16 0xF029#16 [0xF029#16, 0xFF29#16] ∧
    fits 0xF0FF#16 0xF033#16 [0xF033#16, 0xFF33#16] ∧
    fits 0xF0FF#16 0xF055#16 [0xF055#16, 0xFF55#16] ∧
    fits 0xF0FF#16 0xF065#16 [0xF065#16, 0xFF65#16] ∧
    fits 0xF0FF#16 0xF015#16 [0xF015#16, 0xFF15#16] ∧
    fits 0xF0FF#16 0xF018#16 [0xF018#16, 0xFF18#16] ∧
    fits 0xF0FF#16 0xF007#16 [0xF007#16, 0xFF07#16] ∧
    fits 0xF0FF#16 0xE09E#16 [0xE09E#16, 0xEF9E#16] ∧
    fits 0xF0FF#16 0xE0A1#16 [0xE0A1#16, 0xEFA1#16] ∧
    fits 0xF0FF#16 0xF00A#16 [0xF00A#16, 0xFF0A#16] ∧
    0x00E0#16 &&& 0xFFFF#16 = 0x00E0#16 ∧
    fits 0xF000#16 0xD000#16 [0xD000#16, 0xDFFF#16] := by decide

/-- Depths 0 and 15 push, depth 16 overflows. -/
theorem witness_CallPushesAndJumpsOrOverflows : (regs []).stack.length < 16 ∧
    ((regs []).setStack (List.replicate 15 0x202#16)).stack.length < 16 ∧
    16 ≤ ((regs []).setStack (List.replicate 16 0x202#16)).stack.length := by decide +kernel

theorem witness_ReturnPopsOrUnderflows :
    ((regs []).setStack [0x202#16]).stack = 0x202#16 :: [] ∧ (regs []).stack = [] := ⟨rfl, rfl⟩

theorem witness_ReturnComesBackAfterCall : (regs []).stack.length < 16 ∧
    exec (.call 0x300) (regs []) = .next (after (.call 0x300) (regs [])) ∧
    (after (.call 0x300) (regs [])).stack = (after (.call 0x300) (regs [])).stack :=
  ⟨by decide +kernel, exec_after _ _, rfl⟩

/-- The register clause of the flag instructions, for a destination that is not VF. -/
theorem witness_AddSetsSumAndCarry : (0xE#4 : Reg) ≠ VF := by decide

theorem witness_SubtractSetsDifferenceAndFlag : (0x0#4 : Reg) ≠ VF := by decide

theorem witness_SubtractReverseSetsDifferenceAndFlag : (0x2#4 : Reg) ≠ VF := by decide

theorem witness_ShiftsMoveOneBitToVF : (0x4#4 : Reg) ≠ VF := by decide

theorem witness_FlagIsZeroOrOneAfterFlagInstructions : (regs []).status = .running ∧
    Instr.draw 0xF 0xF 0x1 ∈ [.add 0xF 0xF, .subtract 0xF 0xF, .subtractReverse 0xF 0xF, .shiftRight 0xF 0xF,
      .shiftLeft 0xF 0xF, .draw 0xF 0xF 0x1] ∧
    exec (.draw 0xF 0xF 0x1) (regsI 0x300 []) = .next (after (.draw 0xF 0xF 0x1) (regsI 0x300 [])) ∧
    (after (.draw 0xF 0xF 0x1) (regsI 0x300 [])).status = .running :=
  ⟨rfl, by decide, exec_after _ _, by decide +kernel⟩

/-- `load` up to V3 leaves V4 (the boundary), and `add` leaves what is neither V[x] nor VF. -/
theorem witness_OnlyListedRegistersAreWritten :
    exec (.load 0x3) (regsI 0x300 []) = .next (after (.load 0x3) (regsI 0x300 [])) ∧
    (Instr.load 0x3).mayWriteReg 0x4 = false ∧ (Instr.load 0x3).mayWriteReg 0x3 = true ∧
    (Instr.add 0x1 0x2).mayWriteReg 0x2 = false := ⟨exec_after _ _, by decide, by decide, by decide⟩

/-- 0xFFD is the last legal place (T-MEM-8), 0xFFE the first illegal one (T-MEM-9). -/
theorem witness_BcdStoresThreeDigits : (regsI 0xFFD []).i.toNat + 2 ≤ 0xFFF ∧ 0xFFF < (regsI 0xFFE []).i.toNat + 2 ∧
    0xFFF < (regsI 0xFFFF []).i.toNat + 2 := by decide +kernel

/-- T-MEM-11 is the last legal place, T-MEM-12 the first illegal one. -/
theorem witness_StoreCopiesRegisters : (regsI 0xFFF []).i.toNat + (0x0#4 : Reg).toNat ≤ 0xFFF ∧
    (0x0#4 : Reg).toNat ≤ (0x0#4 : Reg).toNat ∧ 0xFFF < (regsI 0xFFE []).i.toNat + (0x2#4 : Reg).toNat ∧
    0xFFF < (regsI 0x1000 []).i.toNat + (0x0#4 : Reg).toNat := by decide +kernel

theorem witness_LoadCopiesMemory : (regsI 0xFF0 []).i.toNat + (0xF#4 : Reg).toNat ≤ 0xFFF ∧
    (0x0#4 : Reg).toNat ≤ (0x3#4 : Reg).toNat ∧ (0x3#4 : Reg).toNat < (0x4#4 : Reg).toNat ∧
    0xFFF < (regsI 0xFF1 []).i.toNat + (0xF#4 : Reg).toNat := by decide +kernel

/-- L1-9: the state after the `store`, with the register file zeroed. -/
def zeroed : State := ((regs []).setMem (after (.store 0x3) (regsI 0x300 [])).mem).setI 0x300#16

theorem witness_LoadRestoresWhatStoreSaved : (regsI 0x300 []).i.toNat + (0x3#4 : Reg).toNat ≤ 0xFFF ∧
    exec (.store 0x3) (regsI 0x300 []) = .next (after (.store 0x3) (regsI 0x300 [])) ∧
    zeroed.mem = (after (.store 0x3) (regsI 0x300 [])).mem ∧ zeroed.i = (after (.store 0x3) (regsI 0x300 [])).i ∧
    (0x3#4 : Reg).toNat ≤ (0x3#4 : Reg).toNat :=
  ⟨by decide +kernel, exec_after _ _, rfl, by decide +kernel, by decide⟩

/-- T-MEM-18. -/
theorem witness_FetchSeesStoredBytes : 1 ≤ (0x1#4 : Reg).toNat ∧
    (regsI 0x202 []).i.toNat + (0x1#4 : Reg).toNat ≤ 0xFFF ∧
    exec (.store 0x1) (regsI 0x202 []) = .next (after (.store 0x1) (regsI 0x202 [])) ∧
    (after (.store 0x1) (regsI 0x202 [])).pc = (regsI 0x202 []).i :=
  ⟨by decide, by decide +kernel, exec_after _ _, by decide +kernel⟩

theorem witness_OnlyBcdAndStoreWriteMemory : exec (.load 0x3) (regsI 0x300 []) =
    .next (after (.load 0x3) (regsI 0x300 [])) ∧ (∀ x, Instr.load 0x3 ≠ .bcdConversion x) ∧
    ∀ x, Instr.load 0x3 ≠ .store x := ⟨exec_after _ _, fun _ h => (by cases h), fun _ h => (by cases h)⟩

/-- 15 is the last key value, 16 the first out of range. -/
theorem witness_KeySkipsTestTheSnapshot : ((regs [(0x0, 15)]).reg 0x0).toNat < 16 ∧
    15 < ((regs [(0x0, 16)]).reg 0x0).toNat := by decide +kernel

theorem witness_WaitForKeypressPollsTheSnapshot : (∀ k : Slot, (regs []).keys[k] = false) ∧
    ∃ k : Slot, ((regs []).supply { Inputs.free with keys := some (Vector.replicate 16 true) }).keys[k] = true := by
  decide +kernel

theorem witness_OtherInstructionsIgnoreTheInputs : (Instr.add 0x1 0x2).readsInput = false ∧
    exec (.add 0x1 0x2) (regs []) = .next (after (.add 0x1 0x2) (regs [])) := ⟨by decide, exec_after _ _⟩

theorem witness_NoInstructionReadsTheSoundTimer :
    exec (.setSoundTimer 0x1) (regs []) = .next (after (.setSoundTimer 0x1) (regs [])) ∧
    exec (.setSoundTimer 0x1) ((regs []).setSt 9#8) = .next (after (.setSoundTimer 0x1) ((regs []).setSt 9#8)) :=
  ⟨exec_after _ _, exec_after _ _⟩

theorem witness_TickCountsDown : (regs []).stop = false ∧ (regs []).raiseStop.stop = true := ⟨rfl, rfl⟩

theorem witness_DelayTimerNeverRisesUnlessSet :
    step ((regs []).withFetchWord 16 0xF107) = .next (afterStep ((regs []).withFetchWord 16 0xF107)) ∧
    ∀ x, decode ((regs []).withFetchWord 16 0xF107).fetchWord ≠ .named (.setDelayTimer x) := by
  refine ⟨step_afterStep rfl, ?_⟩
  rw [show decode ((regs []).withFetchWord 16 0xF107).fetchWord = .named (.readDelayTimer 0x1) from by decide +kernel]
  intro x h
  cases h

/-- n = 0 with any I, the last legal range (T-DSP-8), the first illegal one (T-DSP-7, T-DSP-9), a collision and none. -/
theorem witness_DrawFlipsTheSpritePixels : (0x0#4 : Nibble).toNat = 0 ∧
    (regsI 0xFFC []).i.toNat + (0x4#4 : Nibble).toNat - 1 ≤ 0xFFF ∧
    0 < (0x5#4 : Nibble).toNat ∧ 0xFFF < (regsI 0xFFC []).i.toNat + (0x5#4 : Nibble).toNat - 1 := by decide +kernel

/-- A state in which drawing meets a pixel that is on, at the corner of the grid. -/
def colliding : State :=
  ((regsI 0x300 []).setFb (Framebuffer.blank.toggle 0 0)).setMem (Memory.writeBytes [] 0x300 [0xC0])

/-- The collision clause of the same statement. -/
theorem witness_DrawFlipsTheSpritePixels_hit : ∃ px py, px < 64 ∧ py < 32 ∧
    colliding.spriteAt 0x0 0x1 0x1 px py = true ∧ colliding.fb.pixel px py = true := ⟨0, 0, by decide +kernel⟩

/-- The clause without a collision. -/
theorem witness_DrawFlipsTheSpritePixels_miss : ∀ px py, px < 64 → py < 32 →
    (regsI 0x300 []).spriteAt 0x0 0x1 0x1 px py = true → (regsI 0x300 []).fb.pixel px py = false :=
  fun px py _ _ _ => Framebuffer.blank_pixel px py

theorem witness_DrawingTwiceRestoresTheScreen : colliding.status = .running ∧
    exec (.draw 0x0 0x1 0x1) colliding = .next (after (.draw 0x0 0x1 0x1) colliding) ∧
    (after (.draw 0x0 0x1 0x1) colliding).status = .running ∧
    (after (.draw 0x0 0x1 0x1) colliding).mem = colliding.mem ∧
    (after (.draw 0x0 0x1 0x1) colliding).i = colliding.i ∧
    (after (.draw 0x0 0x1 0x1) colliding).reg 0x0 = colliding.reg 0x0 ∧
    (after (.draw 0x0 0x1 0x1) colliding).reg 0x1 = colliding.reg 0x1 ∧
    exec (.draw 0x0 0x1 0x1) (after (.draw 0x0 0x1 0x1) colliding) =
      .next (after (.draw 0x0 0x1 0x1) (after (.draw 0x0 0x1 0x1) colliding)) :=
  ⟨rfl, exec_after _ _, by decide +kernel, by decide +kernel, by decide +kernel, by decide +kernel,
    by decide +kernel, exec_after _ _⟩

theorem witness_OnlyClearAndDrawWriteTheScreen : exec (.jump 0x300) (regs []) = .next (after (.jump 0x300) (regs [])) ∧
    Instr.jump 0x300 ≠ .clearScreen ∧ ∀ x y n, Instr.jump 0x300 ≠ .draw x y n :=
  ⟨exec_after _ _, fun h => (by cases h), fun _ _ _ h => by cases h⟩

theorem witness_OnlyCallAndReturnTouchTheStack : exec (.jump 0x300) (regs []) = .next (after (.jump 0x300) (regs [])) ∧
    (∀ nnn, Instr.jump 0x300 ≠ .call nnn) ∧ Instr.jump 0x300 ≠ .ret ∧
    ((regs []).setStack (List.replicate 16 0x202#16)).stack.length ≤ 16 ∧
    exec (.call 0x300) ((regs []).setStack (List.replicate 16 0x202#16)) =
      .next (after (.call 0x300) ((regs []).setStack (List.replicate 16 0x202#16))) :=
  ⟨exec_after _ _, fun _ h => (by cases h), fun h => (by cases h), by decide +kernel, exec_after _ _⟩

/-- The clauses of the address: in the font's or the low area, and above it. -/
theorem witness_ResetLeavesTheValuesOfTheSpec : (0x1FF : Nat) < 0x200 ∧ ¬ (0x200 : Nat) < 0x200 ∧ 0xFFF < 0x1000 ∧
    Config.fontBase.val ≤ Config.fontBase.val ∧ Config.fontBase.val < Config.fontBase.val + 80 := by omega

/-- A ROM of the full length, T-RST-2, its last byte, and the addresses around it. -/
theorem witness_LoadPlacesTheRom : (List.replicate 3584 0x01#8).length ≤ 3584 ∧
    3583 < (List.replicate 3584 0x01#8).length ∧ ((0x1FF : Nat) < 0x200 ∨ 0x200 + 3584 ≤ 0x1FF) ∧
    ((0x202 : Nat) < 0x200 ∨ 0x200 + [0x12#8, 0x00#8].length ≤ 0x202) := by
  rw [List.length_replicate]
  decide

theorem witness_StopFlagEndsStepsAndTicks : State.reset.status = .running ∧
    (State.reset.raise .stackUnderflow none none).status = faulted .stackUnderflow none none := ⟨rfl, rfl⟩

theorem reset_inv : State.reset.Inv :=
  { mem := by decide, depth := by decide, returns := fun _ h => (by cases h), stopped := fun h => (by cases h) }

theorem witness_StepKeepsTheInvariant : State.reset.Inv ∧ step State.reset = .next (afterStep State.reset) :=
  ⟨reset_inv, step_afterStep rfl⟩

theorem witness_EveryTransitionKeepsTheInvariant : State.reset.Inv ∧
    act .stop State.reset = .next State.reset.raiseStop ∧ act .tick State.reset = .next State.reset.tick :=
  ⟨reset_inv, rfl, rfl⟩

end Sys2Proof.Tests
end

section
/-! PROOFS. Precise faults (R16, R290) and the instructions that read no input (R17, R49). First what one execution
can do to the control fields, said once (`exec_cases`), then how the shared operations commute with supplying inputs,
then the statements. -/

namespace Sys2Proof.Machine

/-! ### Completing or raising -/

/-- A skip keeps the control fields, taken or not. -/
theorem State.skipIf_controlKept (s : State) (taken : Bool) : ControlKept s (s.skipIf taken) := by
  rw [State.skipIf_eq]
  exact ⟨rfl, rfl, rfl, rfl⟩

/-- A load keeps the control fields. -/
theorem State.loadRegs_controlKept (s : State) (x : Reg) : ControlKept s (s.loadRegs x) := by
  rw [State.loadRegs_eq]
  exact ⟨rfl, rfl, rfl, rfl⟩

/-- What an execution of `i` from `s` to `t` can do to the control fields: it keeps them, or it raises the one cause
of `i` with the word of `i` (R281, R290). -/
def CompletesOrRaises (i : Instr) (s t : State) : Prop :=
  ControlKept s t ∨
    ∃ cause info, i.mayRaise = some cause ∧ t = s.raise cause (some (encode i)) info

/-- A checked access raises MemoryOutOfBounds or does what its completion does. -/
theorem State.accessing_completesOrRaises {i : Instr} {s done : State} (n : Nat)
    (hi : i.mayRaise = some .memoryOutOfBounds) (hdone : ControlKept s done) :
    CompletesOrRaises i s (s.accessing n (encode i) done) := by
  obtain ⟨-, h⟩ | ⟨-, h⟩ := s.accessing_cases n (encode i) done
  · rw [h]; exact .inl hdone
  · rw [h]; exact .inr ⟨_, _, hi, rfl⟩

/-- A key skip raises KeyIndexOutOfRange or is a skip. -/
theorem State.keySkip_completesOrRaises {i : Instr} (s : State) (x : Reg) (wanted : Bool)
    (hi : i.mayRaise = some .keyIndexOutOfRange) :
    CompletesOrRaises i s (s.keySkip x (encode i) wanted) := by
  unfold State.keySkip
  split
  · exact .inr ⟨_, _, hi, rfl⟩
  · exact .inl (s.advance.skipIf_controlKept _)

/-- Everything an execution can do to the control fields: only the instructions with a cause in `mayRaise` can change
them, and those only by raising it. -/
theorem exec_cases {i : Instr} {s t : State} (h : exec i s = .next t) : CompletesOrRaises i s t := by
  cases i with
  | call nnn =>
    cases h
    split
    · exact .inl ⟨rfl, rfl, rfl, rfl⟩
    · exact .inr ⟨_, _, rfl, rfl⟩
  | ret =>
    cases h
    split
    · exact .inr ⟨_, _, rfl, rfl⟩
    · exact .inl ⟨rfl, rfl, rfl, rfl⟩
  | draw x y n => cases h; exact State.accessing_completesOrRaises _ rfl ⟨rfl, rfl, rfl, rfl⟩
  | bcdConversion x => cases h; exact State.accessing_completesOrRaises _ rfl ⟨rfl, rfl, rfl, rfl⟩
  | store x => cases h; exact State.accessing_completesOrRaises _ rfl ⟨rfl, rfl, rfl, rfl⟩
  | load x => cases h; exact State.accessing_completesOrRaises _ rfl (s.advance.loadRegs_controlKept x)
  | skipKeyPressed x => cases h; exact s.keySkip_completesOrRaises x _ rfl
  | skipKeyNotPressed x => cases h; exact s.keySkip_completesOrRaises x _ rfl
  | skipEqImm x nn => cases h; exact .inl (s.advance.skipIf_controlKept _)
  | skipNeImm x nn => cases h; exact .inl (s.advance.skipIf_controlKept _)
  | skipEqReg x y n => cases h; exact .inl (s.advance.skipIf_controlKept _)
  | skipNeReg x y n => cases h; exact .inl (s.advance.skipIf_controlKept _)
  | waitForKeypress x =>
    cases h
    split
    · exact .inl ⟨rfl, rfl, rfl, rfl⟩
    · exact .inl ⟨rfl, rfl, rfl, rfl⟩
  | _ => cases h; exact .inl ⟨rfl, rfl, rfl, rfl⟩

/-! ### Supplying inputs before or after -/

theorem State.skipIf_supply (s : State) (taken : Bool) (inputs : Inputs) :
    (s.supply inputs).skipIf taken = (s.skipIf taken).supply inputs := by
  simp only [State.skipIf_eq]
  rfl

/-- The range check reads I alone, and the fault it raises keeps the inputs. -/
theorem State.accessing_supply (s done : State) (n : Nat) (w : Word) (inputs : Inputs) :
    (s.supply inputs).accessing n w (done.supply inputs) = (s.accessing n w done).supply inputs := by
  obtain ⟨hr, h⟩ | ⟨hr, h⟩ := s.accessing_cases n w done
  · rw [h]; exact State.accessing_legal w _ hr
  · rw [h]; exact State.accessing_illegal w _ hr

theorem State.loadRegs_supply (s : State) (x : Reg) (inputs : Inputs) :
    (s.supply inputs).loadRegs x = (s.loadRegs x).supply inputs :=
  List.foldl_hom (State.supply · inputs) (fun _ _ => rfl)

/-- Noninterference of the inputs: an instruction that reads none commutes with supplying them (R17, R49). -/
theorem exec_supply {i : Instr} {s t : State} (inputs : Inputs) (hi : i.readsInput = false)
    (h : exec i s = .next t) : exec i (s.supply inputs) = .next (t.supply inputs) := by
  cases i with
  | random x nn => cases hi
  | skipKeyPressed x => cases hi
  | skipKeyNotPressed x => cases hi
  | waitForKeypress x => cases hi
  | call nnn => cases h; rw [apply_ite (State.supply · inputs)]; rfl
  | ret =>
    cases h
    simp only [exec, execRet, State.supply_stack]
    split <;> rfl
  | skipEqImm x nn => cases h; rw [← State.skipIf_supply]; rfl
  | skipNeImm x nn => cases h; rw [← State.skipIf_supply]; rfl
  | skipEqReg x y n => cases h; rw [← State.skipIf_supply]; rfl
  | skipNeReg x y n => cases h; rw [← State.skipIf_supply]; rfl
  | draw x y n => cases h; rw [← State.accessing_supply]; rfl
  | bcdConversion x => cases h; rw [← State.accessing_supply]; rfl
  | store x => cases h; rw [← State.accessing_supply]; rfl
  | load x => cases h; rw [← State.accessing_supply, ← State.loadRegs_supply]; rfl
  | _ => cases h; rfl

/-! ### The statements -/

/-- Settles O12: from a Running state an execution that ends Faulted cannot have kept the status, so it is the
raise. -/
theorem faultOfAnInstructionIsPrecise : Obligations.FaultOfAnInstructionIsPrecise := by
  intro i s t rec hs h ht
  obtain ⟨hstatus, -⟩ | ⟨cause, info, -, rfl⟩ := exec_cases h
  · rw [hstatus, hs] at ht; cases ht
  · cases ht; exact ⟨rfl, rfl⟩

/-- Settles O41, by the noninterference of the inputs in each instruction outside R17's and R49's lists. -/
theorem otherInstructionsIgnoreTheInputs : Obligations.OtherInstructionsIgnoreTheInputs :=
  fun _ _ _ inputs hi h => exec_supply inputs hi h

end Sys2Proof.Machine
end

section
/-! PROOFS. What an execution can write (R32, R40, R42, R43, R47, R48), what it reads of ST (R43), and the invariant of
a step. Said once: the one component an instruction writes beside PC and the general registers (`exec_frame`), what it
does to the stack (`exec_stack_cases`) and that it keeps memory canonical (`exec_mem_wf`); the statements follow. -/

namespace Sys2Proof

/-- The components of the state an instruction can write beside PC, the general registers and the status. -/
inductive Component where
  | memory
  | index
  | stack
  | delayTimer
  | soundTimer
  | screen
  deriving DecidableEq

/-- The one component the spec lists an instruction as a writer of, if any (R39, R40, R42, R43, R48, R74). -/
def Instr.target : Instr → Option Component
  | .bcdConversion _ | .store _ => some .memory
  | .setIndex _ | .addToIndex _ | .getFontChar _ => some .index
  | .call _ | .ret => some .stack
  | .setDelayTimer _ => some .delayTimer
  | .setSoundTimer _ => some .soundTimer
  | .clearScreen | .draw _ _ _ => some .screen
  | .jump _ | .jumpWithOffset _ | .skipEqImm _ _ | .skipNeImm _ _ | .skipEqReg _ _ _ | .skipNeReg _ _ _ => none
  | .setReg _ _ | .addToReg _ _ | .set _ _ | .or _ _ | .and _ _ | .xor _ _ | .add _ _ | .subtract _ _ => none
  | .subtractReverse _ _ | .shiftRight _ _ | .shiftLeft _ _ | .random _ _ | .readDelayTimer _ | .load _ => none
  | .skipKeyPressed _ | .skipKeyNotPressed _ | .waitForKeypress _ => none

end Sys2Proof

namespace Sys2Proof.Machine

/-! ### The frame of an execution -/

/-- From `s` to `t` nothing changes but PC, the general registers, the status and the component `c`. -/
def WritesAtMost (c : Option Component) (s t : State) : Prop :=
  t = { s with
    pc := t.pc
    v := t.v
    status := t.status
    mem := if c = some .memory then t.mem else s.mem
    i := if c = some .index then t.i else s.i
    stack := if c = some .stack then t.stack else s.stack
    dt := if c = some .delayTimer then t.dt else s.dt
    st := if c = some .soundTimer then t.st else s.st
    fb := if c = some .screen then t.fb else s.fb }

theorem WritesAtMost.mem {c : Option Component} {s t : State} (h : WritesAtMost c s t) (hc : c ≠ some .memory) :
    t.mem = s.mem := (congrArg State.mem h).trans (if_neg hc)

theorem WritesAtMost.stack {c : Option Component} {s t : State} (h : WritesAtMost c s t) (hc : c ≠ some .stack) :
    t.stack = s.stack := (congrArg State.stack h).trans (if_neg hc)

theorem WritesAtMost.dt {c : Option Component} {s t : State} (h : WritesAtMost c s t) (hc : c ≠ some .delayTimer) :
    t.dt = s.dt := (congrArg State.dt h).trans (if_neg hc)

theorem WritesAtMost.fb {c : Option Component} {s t : State} (h : WritesAtMost c s t) (hc : c ≠ some .screen) :
    t.fb = s.fb := (congrArg State.fb h).trans (if_neg hc)

theorem State.skipIf_writesAtMost (s : State) (taken : Bool) : WritesAtMost none s (s.advance.skipIf taken) := by
  rw [State.skipIf_eq]
  rfl

theorem State.loadRegs_writesAtMost (s : State) (x : Reg) : WritesAtMost none s (s.advance.loadRegs x) := by
  rw [State.loadRegs_eq]
  rfl

/-- A checked access writes what its completion writes, or raises and writes the status alone. -/
theorem State.accessing_writesAtMost {c : Option Component} {s done : State} (n : Nat) (w : Word)
    (hdone : WritesAtMost c s done) : WritesAtMost c s (s.accessing n w done) := by
  obtain ⟨-, h⟩ | ⟨-, h⟩ := s.accessing_cases n w done
  · rw [h]; exact hdone
  · rw [h]; simp [WritesAtMost, State.raise]

theorem State.keySkip_writesAtMost (s : State) (x : Reg) (w : Word) (wanted : Bool) :
    WritesAtMost none s (s.keySkip x w wanted) := by
  unfold State.keySkip
  split
  · rfl
  · exact s.skipIf_writesAtMost _

/-- The frame of every instruction: it writes at most PC, the general registers, the status and its one listed
component, on the faulting paths too. -/
theorem exec_frame {i : Instr} {s t : State} (h : exec i s = .next t) : WritesAtMost i.target s t := by
  cases i with
  | call nnn => cases h; split <;> rfl
  | ret => cases h; split <;> rfl
  | waitForKeypress x => cases h; split <;> rfl
  | skipEqImm _ _ | skipNeImm _ _ | skipEqReg _ _ _ | skipNeReg _ _ _ => cases h; exact s.skipIf_writesAtMost _
  | skipKeyPressed x | skipKeyNotPressed x => cases h; exact s.keySkip_writesAtMost x _ _
  | draw _ _ _ | bcdConversion _ | store _ => cases h; exact State.accessing_writesAtMost _ _ rfl
  | load x => cases h; exact State.accessing_writesAtMost _ _ (s.loadRegs_writesAtMost x)
  | _ => cases h; rfl

/-! ### The stack and memory -/

/-- Everything an execution can do to the stack: keep it, push addr + 2 below depth 16, or pop (R40, R172, R173). -/
theorem exec_stack_cases {i : Instr} {s t : State} (h : exec i s = .next t) :
    t.stack = s.stack ∨ (s.stack.length < Config.stackDepth ∧ t.stack = (s.pc + 2#16) :: s.stack) ∨
      ∃ w, s.stack = w :: t.stack := by
  cases i with
  | call nnn =>
    cases h
    split
    · next hlt => exact .inr (.inl ⟨hlt, rfl⟩)
    · exact .inl rfl
  | ret =>
    cases h
    split
    · exact .inl rfl
    · next w rest hs => exact .inr (.inr ⟨w, hs⟩)
  | _ => exact .inl ((exec_frame h).stack nofun)

/-- The depth bound of the stack is kept (R40). -/
theorem exec_stack_length_le {i : Instr} {s t : State} (hs : s.stack.length ≤ Config.stackDepth)
    (h : exec i s = .next t) : t.stack.length ≤ Config.stackDepth := by
  obtain hk | ⟨hlt, hk⟩ | ⟨w, hk⟩ := exec_stack_cases h
  · rw [hk]; exact hs
  · rw [hk]; exact hlt
  · rw [hk, List.length_cons] at hs; omega

/-- A checked access keeps memory canonical when its completion does so in a legal range. -/
theorem State.accessing_mem_wf {s done : State} (n : Nat) (w : Word) (hs : s.mem.wf)
    (hdone : s.rangeIllegal n = false → done.mem.wf) : (s.accessing n w done).mem.wf := by
  obtain ⟨hr, h⟩ | ⟨-, h⟩ := s.accessing_cases n w done
  · rw [h]; exact hdone hr
  · rw [h]; exact hs

/-- A write of as many bytes from I on as the range check has found legal keeps memory canonical (R75, R226). -/
theorem State.wf_writeBytes_of_legal {s : State} {bs : List Byte} (hs : s.mem.wf)
    (hr : s.rangeIllegal bs.length = false) (hbs : 0 < bs.length) : (s.mem.writeBytes s.i.toNat bs).wf := by
  rw [← Bool.not_eq_true, State.rangeIllegal_iff] at hr
  exact Memory.wf_writeBytes hs (by simp only [Config.memSize]; omega)

/-- Every instruction keeps memory in its canonical form: the two writers check their range first (R47, R75). -/
theorem exec_mem_wf {i : Instr} {s t : State} (hs : s.mem.wf) (h : exec i s = .next t) : t.mem.wf := by
  cases i with
  | bcdConversion x =>
    cases h
    exact State.accessing_mem_wf _ _ hs fun hr => State.wf_writeBytes_of_legal hs hr (Nat.succ_pos _)
  | store x =>
    cases h
    have hlen : (s.regsUpTo x).length = x.toNat + 1 := by simp [State.regsUpTo]
    exact State.accessing_mem_wf _ _ hs fun hr =>
      State.wf_writeBytes_of_legal hs (hlen ▸ hr) (hlen ▸ Nat.succ_pos _)
  | _ => rw [(exec_frame h).mem nofun]; exact hs

/-! ### The general registers -/

theorem State.setReg_reg_other {s : State} {x r : Reg} {b : Byte} (h : r ≠ x) : (s.setReg x b).reg r = s.reg r := by
  rw [State.setReg_reg, if_neg h]

theorem State.setRegFlag_reg_other {s : State} {x r : Reg} {b : Byte} {f : Bool} (hx : r ≠ x) (hf : r ≠ VF) :
    (s.setRegFlag x b f).reg r = s.reg r := by
  rw [State.setRegFlag_reg, if_neg hf, if_neg hx]

theorem State.skipIf_reg (s : State) (taken : Bool) (r : Reg) : (s.skipIf taken).reg r = s.reg r := by
  rw [State.skipIf_eq]
  rfl

/-- A checked access keeps a register its completion keeps. -/
theorem State.accessing_reg {s done : State} {r : Reg} (n : Nat) (w : Word) (hdone : done.reg r = s.reg r) :
    (s.accessing n w done).reg r = s.reg r := by
  obtain ⟨-, h⟩ | ⟨-, h⟩ := s.accessing_cases n w done
  · rw [h]; exact hdone
  · rw [h]; rfl

theorem State.keySkip_reg (s : State) (x : Reg) (w : Word) (wanted : Bool) (r : Reg) :
    (s.keySkip x w wanted).reg r = s.reg r := by
  unfold State.keySkip
  split
  · rfl
  · exact s.advance.skipIf_reg _ r

/-- An execution keeps every register that R32 does not list for its instruction. -/
theorem exec_reg_of_not_mayWriteReg {i : Instr} {s t : State} {r : Reg} (h : exec i s = .next t)
    (hr : i.mayWriteReg r = false) : t.reg r = s.reg r := by
  cases i with
  | setReg _ _ | addToReg _ _ | set _ _ | or _ _ | and _ _ | xor _ _ | random _ _ | readDelayTimer _ =>
    cases h; exact State.setReg_reg_other (of_decide_eq_false hr)
  | add _ _ | subtract _ _ | subtractReverse _ _ | shiftRight _ _ | shiftLeft _ _ =>
    cases h
    obtain ⟨hx, hf⟩ := Bool.or_eq_false_iff.mp hr
    exact State.setRegFlag_reg_other (of_decide_eq_false hx) (of_decide_eq_false hf)
  | waitForKeypress _ =>
    cases h
    split
    · rfl
    · exact State.setReg_reg_other (of_decide_eq_false hr)
  | load x =>
    cases h
    refine State.accessing_reg _ _ ?_
    rw [State.loadRegs_reg, if_neg (of_decide_eq_false hr)]
    rfl
  | draw _ _ _ => cases h; exact State.accessing_reg _ _ (State.setReg_reg_other (of_decide_eq_false hr))
  | bcdConversion _ | store _ => cases h; exact State.accessing_reg _ _ rfl
  | skipEqImm _ _ | skipNeImm _ _ | skipEqReg _ _ _ | skipNeReg _ _ _ => cases h; exact s.advance.skipIf_reg _ r
  | skipKeyPressed x | skipKeyNotPressed x => cases h; exact s.keySkip_reg x _ _ r
  | call _ => cases h; split <;> rfl
  | ret => cases h; split <;> rfl
  | _ => cases h; rfl

/-! ### Flags -/

theorem flagByte_eq_zero_or_one (f : Bool) : flagByte f = 0#8 ∨ flagByte f = 1#8 := by
  cases f
  · exact .inl rfl
  · exact .inr rfl

/-- VF holds the flag after a result and a flag are written, the flag last (R18, R203). -/
theorem State.setRegFlag_VF (s : State) (x : Reg) (b : Byte) (f : Bool) : (s.setRegFlag x b f).reg VF = flagByte f := by
  rw [State.setRegFlag_reg, if_pos rfl]

/-- A checked access that ends Running has completed. -/
theorem State.accessing_eq_of_running {s done : State} {n : Nat} {w : Word}
    (h : (s.accessing n w done).status = .running) : s.accessing n w done = done := by
  obtain ⟨-, hd⟩ | ⟨-, hr⟩ := s.accessing_cases n w done
  · exact hd
  · rw [hr] at h; cases h

/-! ### Setting ST before or after -/

@[simp] theorem State.setSt_keys (s : State) (b : Byte) : (s.setSt b).keys = s.keys := rfl
@[simp] theorem State.setSt_pick (s : State) (b : Byte) : (s.setSt b).pick = s.pick := rfl

theorem State.skipIf_setSt (s : State) (taken : Bool) (b : Byte) :
    (s.setSt b).skipIf taken = (s.skipIf taken).setSt b := by
  simp only [State.skipIf_eq]
  rfl

/-- The range check reads I alone, and the fault it raises keeps ST. -/
theorem State.accessing_setSt (s done : State) (n : Nat) (w : Word) (b : Byte) :
    (s.setSt b).accessing n w (done.setSt b) = (s.accessing n w done).setSt b := by
  obtain ⟨hr, h⟩ | ⟨hr, h⟩ := s.accessing_cases n w done
  · rw [h]; exact State.accessing_legal w _ hr
  · rw [h]; exact State.accessing_illegal w _ hr

theorem State.loadRegs_setSt (s : State) (x : Reg) (b : Byte) : (s.setSt b).loadRegs x = (s.loadRegs x).setSt b :=
  List.foldl_hom (State.setSt · b) (fun _ _ => rfl)

theorem State.keySkip_setSt (s : State) (x : Reg) (w : Word) (wanted : Bool) (b : Byte) :
    (s.setSt b).keySkip x w wanted = (s.keySkip x w wanted).setSt b := by
  simp only [State.keySkip, State.setSt_reg]
  split
  · rfl
  · exact s.advance.skipIf_setSt _ b

/-- Noninterference of ST: an instruction other than `set-sound-timer` commutes with setting ST (R43). -/
theorem exec_setSt {i : Instr} {s t : State} (b : Byte) (hi : ∀ x, i ≠ .setSoundTimer x)
    (h : exec i s = .next t) : exec i (s.setSt b) = .next (t.setSt b) := by
  cases i with
  | setSoundTimer x => exact absurd rfl (hi x)
  | call nnn => cases h; rw [apply_ite (State.setSt · b)]; rfl
  | ret =>
    cases h
    simp only [exec, execRet, State.setSt_stack]
    split <;> rfl
  | waitForKeypress x =>
    cases h
    simp only [exec, execWaitForKeypress, State.setSt_keys, State.setSt_pick]
    split <;> rfl
  | skipEqImm _ _ | skipNeImm _ _ | skipEqReg _ _ _ | skipNeReg _ _ _ => cases h; rw [← State.skipIf_setSt]; rfl
  | skipKeyPressed _ | skipKeyNotPressed _ => cases h; rw [← State.keySkip_setSt]; rfl
  | draw _ _ _ | bcdConversion _ | store _ => cases h; rw [← State.accessing_setSt]; rfl
  | load x => cases h; rw [← State.accessing_setSt, ← State.loadRegs_setSt]; rfl
  | _ => cases h; rfl

/-! ### The invariant -/

/-- The address after a legally fetched word is a return address (R141, R172). -/
theorem returnAddress_of_fetchFault_none {a : Word} (h : fetchFault a = none) : returnAddress (a + 2#16) := by
  obtain ⟨hlo, hhi, heven⟩ := (fetchFault_none_iff a).mp h
  have hadd : (a + 2#16).toNat = a.toNat + 2 := by bv_omega
  unfold returnAddress
  omega

theorem State.Inv.raise {s : State} (hs : s.Inv) (cause : Cause) (word info : Option Word) :
    (s.raise cause word info).Inv :=
  { mem := hs.mem, depth := hs.depth, returns := hs.returns, stopped := fun _ h => by cases h }

theorem State.Inv.elapse {s : State} (hs : s.Inv) : s.elapse.Inv := by
  rw [s.elapse_eq]
  exact ⟨hs.mem, hs.depth, hs.returns, hs.stopped⟩

theorem State.Inv.consume {s : State} (hs : s.Inv) : s.consume.Inv :=
  ⟨hs.mem, hs.depth, hs.returns, hs.stopped⟩

/-- An execution leaves only return addresses on a stack of return addresses: what it pushes is the address after its
own word. -/
theorem exec_stack_returnAddress {i : Instr} {s t : State} (hs : ∀ w ∈ s.stack, returnAddress w)
    (hpc : fetchFault s.pc = none) (h : exec i s = .next t) : ∀ w ∈ t.stack, returnAddress w := by
  obtain hk | ⟨-, hk⟩ | ⟨w, hk⟩ := exec_stack_cases h
  · rw [hk]; exact hs
  · rw [hk]; exact List.forall_mem_cons.mpr ⟨returnAddress_of_fetchFault_none hpc, hs⟩
  · rw [hk] at hs; exact (List.forall_mem_cons.mp hs).2

/-- An execution of a legally fetched instruction keeps the invariant. -/
theorem exec_inv {i : Instr} {s t : State} (hs : s.Inv) (hpc : fetchFault s.pc = none)
    (h : exec i s = .next t) : t.Inv where
  mem := exec_mem_wf hs.mem h
  depth := exec_stack_length_le hs.depth h
  returns := exec_stack_returnAddress hs.returns hpc h
  stopped := by
    obtain ⟨hstatus, hstop, -⟩ | ⟨cause, info, -, rfl⟩ := exec_cases h
    · rw [hstatus, hstop]; exact hs.stopped
    · exact (hs.raise cause _ info).stopped

/-- An engine step keeps the invariant: a fetch fault and an Unknown word change the status alone. -/
theorem engineStep_inv {s t : State} (hs : s.Inv) (h : engineStep s = .next t) : t.Inv := by
  obtain ⟨cause, -, rfl⟩ | ⟨-, w, -, rfl⟩ | ⟨hpc, i, -, hexec⟩ := engineStep_cases h
  · exact hs.raise cause none none
  · exact hs.raise .unknownOpcode (some w) none
  · exact exec_inv hs hpc hexec

/-- An engine step keeps DT unless it executes `set-delay-timer`. -/
theorem engineStep_dt {s t : State} (h : engineStep s = .next t)
    (hset : ∀ x, decode s.fetchWord ≠ .named (.setDelayTimer x)) : t.dt = s.dt := by
  obtain ⟨cause, -, rfl⟩ | ⟨-, w, -, rfl⟩ | ⟨-, i, hi, hexec⟩ := engineStep_cases h
  · rfl
  · rfl
  · refine (exec_frame hexec).dt fun htarget => ?_
    cases i with
    | setDelayTimer x => exact hset x hi
    | _ => cases htarget

/-! ### The statements -/

/-- Settles O57: the ticks before the step, the engine step and the consumption of the inputs each keep the
invariant. -/
theorem stepKeepsTheInvariant : Obligations.StepKeepsTheInvariant := by
  intro s t hs h
  obtain ⟨-, u, hu, rfl⟩ := step_cases h
  exact (engineStep_inv hs.elapse hu).consume

/-- Settles O29: the flag is the last byte written, and a draw that ends Running has completed. -/
theorem flagIsZeroOrOneAfterFlagInstructions : Obligations.FlagIsZeroOrOneAfterFlagInstructions := by
  intro i x y n s t _ hi h ht
  obtain ⟨f, hf⟩ : ∃ f, t.reg VF = flagByte f := by
    cases i with
    | add _ _ | subtract _ _ | subtractReverse _ _ | shiftRight _ _ | shiftLeft _ _ =>
      cases h
      exact ⟨_, State.setRegFlag_VF ..⟩
    | draw _ _ _ =>
      cases h
      rw [State.accessing_eq_of_running ht, State.setReg_reg, if_pos rfl]
      exact ⟨_, rfl⟩
    | _ => simp at hi
  rw [hf]
  exact flagByte_eq_zero_or_one f

/-- Settles O30, by the registers each instruction keeps. -/
theorem onlyListedRegistersAreWritten : Obligations.OnlyListedRegistersAreWritten :=
  fun _ _ _ _ h hr => exec_reg_of_not_mayWriteReg h hr

/-- Settles O42: `set-sound-timer` overwrites ST with a register, and every other instruction commutes with
setting ST. -/
theorem noInstructionReadsTheSoundTimer : Obligations.NoInstructionReadsTheSoundTimer := by
  intro i s t u b ht hu
  by_cases hi : ∃ x, i = .setSoundTimer x
  · obtain ⟨x, rfl⟩ := hi
    cases ht
    cases hu
    rfl
  · rw [exec_setSt b (not_exists.mp hi) ht] at hu
    cases hu
    rfl

/-- Settles O45: ticks do not raise DT, and the engine step keeps it. -/
theorem delayTimerNeverRisesUnlessSet : Obligations.DelayTimerNeverRisesUnlessSet := by
  intro s t h hset
  obtain ⟨-, u, hu, rfl⟩ := step_cases h
  have hdt : u.dt = s.elapse.dt := engineStep_dt hu (by rwa [State.elapse_fetchWord])
  rw [State.consume_dt, hdt]
  exact s.elapse_dt_le

/-- Settles O49: the screen is the target of `clear-screen` and `draw` alone. -/
theorem onlyClearAndDrawWriteTheScreen : Obligations.OnlyClearAndDrawWriteTheScreen := by
  intro i s t h hclear hdraw
  refine (exec_frame h).fb fun htarget => ?_
  cases i with
  | clearScreen => exact hclear rfl
  | draw x y n => exact hdraw x y n rfl
  | _ => cases htarget

/-- Settles O50: the stack is the target of `call` and `return` alone, and a push happens below depth 16 only. -/
theorem onlyCallAndReturnTouchTheStack : Obligations.OnlyCallAndReturnTouchTheStack := by
  refine ⟨fun i s t h hcall hret => (exec_frame h).stack fun htarget => ?_, fun _ _ _ => exec_stack_length_le⟩
  cases i with
  | call nnn => exact hcall nnn rfl
  | ret => exact hret rfl
  | _ => cases htarget

/-- Settles O56: the reset memory lists no cell, the reset stack is empty and the stop flag is clear. -/
theorem invariantHoldsAtReset : Obligations.InvariantHoldsAtReset where
  mem := Memory.wf_nil
  depth := Nat.zero_le _
  returns := fun _ h => by cases h
  stopped := fun h => by cases h

end Sys2Proof.Machine
end

section
/-! PROOFS. The memory of the machine: what a fetch reads (R70), what a store leaves to be read (R72, R87, R224), the
two instructions that write memory (R74), and the invariant over the transitions of every agent (R82, R148). -/

namespace Sys2Proof

/-! ### The bytes of a fetched word -/

@[simp] theorem hiByte_wordOfBytes (hi lo : Byte) : Word.hiByte (wordOfBytes hi lo) = hi := by
  apply BitVec.eq_of_toNat_eq
  rw [Word.hiByte_toNat, wordOfBytes_toNat]; omega

@[simp] theorem loByte_wordOfBytes (hi lo : Byte) : Word.loByte (wordOfBytes hi lo) = lo := by
  apply BitVec.eq_of_toNat_eq
  rw [Word.loByte_toNat, wordOfBytes_toNat]; omega

end Sys2Proof

namespace Sys2Proof.Machine

/-! ### What a store leaves to be read -/

@[simp] theorem State.length_regsUpTo (s : State) (x : Reg) : (s.regsUpTo x).length = x.toNat + 1 := by
  simp [State.regsUpTo]

theorem State.getElem_regsUpTo (s : State) (x r : Reg) (h : r.toNat < (s.regsUpTo x).length) :
    (s.regsUpTo x)[r.toNat] = s.reg r := by
  simp [State.regsUpTo]

/-- A store whose range is legal completes (R75, R224). -/
theorem exec_store_of_legal {x : Reg} {s : State} (h : s.i.toNat + x.toNat ≤ 0xFFF) :
    exec (.store x) s = .next (s.advance.setMem (s.mem.writeBytes s.i.toNat (s.regsUpTo x))) := by
  have hlegal : s.rangeIllegal (x.toNat + 1) = false := by
    rw [← Bool.not_eq_true, State.rangeIllegal_iff]; omega
  exact congrArg Host.Outcome.next (State.accessing_legal _ _ hlegal)

/-- After a store whose range is legal, the address at offset `r` from I holds V[r] (R224). -/
theorem read_of_exec_store {x r : Reg} {s t : State} (hr : r.toNat ≤ x.toNat) (h : s.i.toNat + x.toNat ≤ 0xFFF)
    (hexec : exec (.store x) s = .next t) : t.mem.read (s.i.toNat + r.toNat) = s.reg r := by
  rw [exec_store_of_legal h] at hexec
  cases hexec
  rw [State.setMem_mem, Memory.read_writeBytes, dif_pos (by rw [State.length_regsUpTo]; omega)]
  simp only [Nat.add_sub_cancel_left, State.getElem_regsUpTo]

/-! ### The invariant over the other agents' transitions -/

/-- A tick changes DT and ST alone (R300). -/
theorem State.tick_eq (s : State) : s.tick = { s with dt := s.tick.dt, st := s.tick.st } := by
  unfold State.tick
  split <;> rfl

theorem State.Inv.tick {s : State} (hs : s.Inv) : s.tick.Inv := by
  rw [s.tick_eq]
  exact ⟨hs.mem, hs.depth, hs.returns, hs.stopped⟩

/-- No machine runs once the stop flag is raised (R311). -/
theorem State.raiseStop_status_ne_running (s : State) : s.raiseStop.status ≠ .running := by
  unfold State.raiseStop
  cases s.status <;> nofun

theorem State.Inv.raiseStop {s : State} (hs : s.Inv) : s.raiseStop.Inv :=
  ⟨hs.mem, hs.depth, hs.returns, fun _ => s.raiseStop_status_ne_running⟩

theorem State.Inv.supply {s : State} (hs : s.Inv) (inputs : Inputs) : (s.supply inputs).Inv :=
  ⟨hs.mem, hs.depth, hs.returns, hs.stopped⟩

/-- The loads that create a state, and the state they create: the reset state with the ROM at 0x200 (R320, R321). -/
theorem loadRom_ok_iff {clock : Nat} {rom : List Byte} {t : State} :
    loadRom clock rom = .ok t ↔ rom.length ≤ Config.romMax ∧
      t = { State.reset with mem := State.reset.mem.writeBytes Config.progStart rom, clock := clock } := by
  unfold loadRom
  split
  · next h => simp [h, eq_comm]
  · next h => simp [h]

/-- A loaded state has the invariant: an accepted ROM ends inside memory, and the rest is as at reset. -/
theorem loadRom_inv {clock : Nat} {rom : List Byte} {t : State} (h : loadRom clock rom = .ok t) : t.Inv := by
  obtain ⟨hlen, rfl⟩ := loadRom_ok_iff.mp h
  obtain ⟨hmem, hdepth, hreturns, hstopped⟩ := invariantHoldsAtReset
  have hfit : Config.progStart + rom.length ≤ Config.memSize := Nat.add_le_add_left hlen _
  exact ⟨Memory.wf_writeBytes hmem hfit, hdepth, hreturns, hstopped⟩

theorem act_tick_next {s t : State} (h : act .tick s = .next t) : t = s.tick := by
  simp only [act] at h
  split at h
  · cases h
  · exact (Host.Outcome.next.inj h).symm

theorem act_load_next {rom : List Byte} {s t : State} (h : act (.load rom) s = .next t) :
    loadRom s.clock rom = .ok t := by
  simp only [act] at h
  split at h
  · next u hu => rw [hu, Host.Outcome.next.inj h]
  · cases h

/-! ### The statements -/

/-- Settles O58: a step by `stepKeepsTheInvariant`; a tick, the stop flag and new inputs leave memory and the stack
alone; a load starts from reset. -/
theorem everyTransitionKeepsTheInvariant : Obligations.EveryTransitionKeepsTheInvariant := by
  intro a s t hs h
  cases a with
  | step => exact stepKeepsTheInvariant s t hs h
  | tick => rw [act_tick_next h]; exact hs.tick
  | stop => cases h; exact hs.raiseStop
  | supply inputs => cases h; exact hs.supply inputs
  | load rom => exact loadRom_inv (act_load_next h)

/-- Settles O36: the two bytes at I are V0 and V1, and the fetch takes the first as the high one. -/
theorem fetchSeesStoredBytes : Obligations.FetchSeesStoredBytes := by
  intro x s t u hx hrange hexec hmem hpc
  have h0 : t.mem.read s.i.toNat = s.reg 0x0#4 := read_of_exec_store (r := 0x0#4) (Nat.zero_le _) hrange hexec
  have h1 : t.mem.read (s.i.toNat + 1) = s.reg 0x1#4 := read_of_exec_store (r := 0x1#4) hx hrange hexec
  rw [State.fetchWord_toNat, hmem, hpc, h0, h1, Nat.mul_comm]

/-- Settles O37: memory is the target of `bcd-conversion` and `store` alone. -/
theorem onlyBcdAndStoreWriteMemory : Obligations.OnlyBcdAndStoreWriteMemory := by
  intro i s t h hbcd hstore
  refine (exec_frame h).mem fun htarget => ?_
  cases i with
  | bcdConversion x => exact hbcd x rfl
  | store x => exact hstore x rfl
  | _ => cases htarget

/-- Settles O8: the fetched word is the two bytes put together, and its byte fields give them back. -/
theorem fetchIsBigEndian : Obligations.FetchIsBigEndian := by
  intro s
  refine ⟨?_, hiByte_wordOfBytes _ _, loByte_wordOfBytes _ _⟩
  rw [State.fetchWord_toNat, Nat.mul_comm]

end Sys2Proof.Machine
end

section
/-! PROOFS. The encoding (R101 to R114). The decoder is inverted once: `decode_reads` says of every word what its
answer is, a named instruction whose word it is, or Unknown for the words without a name. The round trips, the list of
the Unknown words and the rows of the opcode map follow from it and from `decode_encode`. -/

namespace Sys2Proof

/-! ### The words without a name -/

/-- The low 12 bits that name an operation of op 0 (R106). -/
def namedOp0 : List Addr12 := [0x0E0#12, 0x0EE#12]

/-- The values of `n` that name an operation of op 8 (R107). -/
def namedOp8 : List Nibble := [0x0#4, 0x1#4, 0x2#4, 0x3#4, 0x4#4, 0x5#4, 0x6#4, 0x7#4, 0xE#4]

/-- The values of `nn` that name an operation of op E (R108). -/
def namedOpE : List Byte := [0x9E#8, 0xA1#8]

/-- The values of `nn` that name an operation of op F (R109). -/
def namedOpF : List Byte := [0x07#8, 0x0A#8, 0x15#8, 0x18#8, 0x1E#8, 0x29#8, 0x33#8, 0x55#8, 0x65#8]

/-- The word is left without a name by R106 to R109 (R113), read off its fields. -/
def Word.Unnamed (w : Word) : Prop :=
  (Word.op w = 0x0#4 ∧ Word.nnn w ∉ namedOp0) ∨ (Word.op w = 0x8#4 ∧ Word.n w ∉ namedOp8) ∨
    (Word.op w = 0xE#4 ∧ Word.nn w ∉ namedOpE) ∨ (Word.op w = 0xF#4 ∧ Word.nn w ∉ namedOpF)

theorem Word.unnamed_iff_of_op0 {w : Word} (hop : Word.op w = 0x0#4) :
    Word.Unnamed w ↔ Word.nnn w ∉ namedOp0 := by
  simp [Word.Unnamed, hop]

theorem Word.unnamed_iff_of_op8 {w : Word} (hop : Word.op w = 0x8#4) : Word.Unnamed w ↔ Word.n w ∉ namedOp8 := by
  simp [Word.Unnamed, hop]

theorem Word.unnamed_iff_of_opE {w : Word} (hop : Word.op w = 0xE#4) : Word.Unnamed w ↔ Word.nn w ∉ namedOpE := by
  simp [Word.Unnamed, hop]

theorem Word.unnamed_iff_of_opF {w : Word} (hop : Word.op w = 0xF#4) : Word.Unnamed w ↔ Word.nn w ∉ namedOpF := by
  simp [Word.Unnamed, hop]

/-- The words without a name, in the numbers of R113. -/
theorem Word.unnamed_iff (w : Word) : Word.Unnamed w ↔
    (w.toNat / 4096 = 0x0 ∧ w.toNat ≠ 0x00E0 ∧ w.toNat ≠ 0x00EE) ∨
    (w.toNat / 4096 = 0x8 ∧ w.toNat % 16 ∈ [0x8, 0x9, 0xA, 0xB, 0xC, 0xD, 0xF]) ∨
    (w.toNat / 4096 = 0xE ∧ w.toNat % 256 ∉ [0x9E, 0xA1]) ∨
    (w.toNat / 4096 = 0xF ∧ w.toNat % 256 ∉ [0x07, 0x0A, 0x15, 0x18, 0x1E, 0x29, 0x33, 0x55, 0x65]) := by
  simp only [Word.Unnamed, namedOp0, namedOp8, namedOpE, namedOpF, List.mem_cons, List.not_mem_nil, or_false,
    BitVec.toNat_eq, BitVec.toNat_ofNat, Word.op_toNat, Word.nnn_toNat, Word.n_toNat, Word.nn_toNat]
  refine or_congr ?_ (or_congr ?_ (or_congr ?_ ?_)) <;> omega

/-! ### What the decoder answers -/

/-- The answer is right for the word: a named instruction whose word it is, or the word itself where it has no
name (R112, R113). -/
def Decoded.Reads (w : Word) : Decoded → Prop
  | .named i => encode i = w ∧ ¬ Word.Unnamed w
  | .unknown u => u = w ∧ Word.Unnamed w

theorem Word.layoutA_of_op {w : Word} {op : Nibble} (hop : Word.op w = op) : layoutA op (Word.nnn w) = w := by
  rw [← hop, Word.layoutA_fields]

theorem Word.layoutX_of_op {w : Word} {op : Nibble} (hop : Word.op w = op) :
    layoutX op (Word.x w) (Word.nn w) = w := by
  rw [← hop, Word.layoutX_fields]

theorem Word.layoutXY_of_op {w : Word} {op : Nibble} (hop : Word.op w = op) :
    layoutXY op (Word.x w) (Word.y w) (Word.n w) = w := by
  rw [← hop, Word.layoutXY_fields]

theorem decodeOp0_reads {w : Word} (hop : Word.op w = 0x0#4) : (decodeOp0 w).Reads w := by
  have hw := Word.layoutA_of_op hop
  have hname := Word.unnamed_iff_of_op0 hop
  unfold decodeOp0
  split_ifs with h0E0 h0EE
  · rw [h0E0] at hw hname; exact ⟨hw, by rw [hname]; decide⟩
  · rw [h0EE] at hw hname; exact ⟨hw, by rw [hname]; decide⟩
  · exact ⟨rfl, hname.mpr (by simp [namedOp0, *])⟩

theorem decodeOp8_reads {w : Word} (hop : Word.op w = 0x8#4) : (decodeOp8 w).Reads w := by
  have hw := Word.layoutXY_of_op hop
  have hname := Word.unnamed_iff_of_op8 hop
  unfold decodeOp8
  split_ifs with hn hn hn hn hn hn hn hn hn
  on_goal 10 => exact ⟨rfl, hname.mpr (by simp [namedOp8, *])⟩
  all_goals rw [hn] at hw hname; exact ⟨hw, by rw [hname]; decide⟩

theorem decodeOpE_reads {w : Word} (hop : Word.op w = 0xE#4) : (decodeOpE w).Reads w := by
  have hw := Word.layoutX_of_op hop
  have hname := Word.unnamed_iff_of_opE hop
  unfold decodeOpE
  split_ifs with hnn hnn
  on_goal 3 => exact ⟨rfl, hname.mpr (by simp [namedOpE, *])⟩
  all_goals rw [hnn] at hw hname; exact ⟨hw, by rw [hname]; decide⟩

theorem decodeOpF_reads {w : Word} (hop : Word.op w = 0xF#4) : (decodeOpF w).Reads w := by
  have hw := Word.layoutX_of_op hop
  have hname := Word.unnamed_iff_of_opF hop
  unfold decodeOpF
  split_ifs with hnn hnn hnn hnn hnn hnn hnn hnn hnn
  on_goal 10 => exact ⟨rfl, hname.mpr (by simp [namedOpF, *])⟩
  all_goals rw [hnn] at hw hname; exact ⟨hw, by rw [hname]; decide⟩

/-- Every word of the twelve other values of op has a name (R110). -/
theorem Word.not_unnamed_of_op {w : Word} {op : Nibble} (hop : Word.op w = op)
    (h : op ∉ [0x0#4, 0x8#4, 0xE#4, 0xF#4]) : ¬ Word.Unnamed w := by
  subst hop
  simp only [List.mem_cons, List.not_mem_nil, or_false, not_or] at h
  simp [Word.Unnamed, h]

/-- The decoder's answer is right for every word: by op, and inside op 0, 8, E and F by their own field (R105). -/
theorem decode_reads (w : Word) : (decode w).Reads w := by
  obtain h | h | h | h | h | h | h | h | h | h | h | h | h | h | h | h := nibble_cases (Word.op w)
  · rw [decode_op0 h]; exact decodeOp0_reads h
  · rw [decode_op1 h]; exact ⟨Word.layoutA_of_op h, Word.not_unnamed_of_op h (by decide)⟩
  · rw [decode_op2 h]; exact ⟨Word.layoutA_of_op h, Word.not_unnamed_of_op h (by decide)⟩
  · rw [decode_op3 h]; exact ⟨Word.layoutX_of_op h, Word.not_unnamed_of_op h (by decide)⟩
  · rw [decode_op4 h]; exact ⟨Word.layoutX_of_op h, Word.not_unnamed_of_op h (by decide)⟩
  · rw [decode_op5 h]; exact ⟨Word.layoutXY_of_op h, Word.not_unnamed_of_op h (by decide)⟩
  · rw [decode_op6 h]; exact ⟨Word.layoutX_of_op h, Word.not_unnamed_of_op h (by decide)⟩
  · rw [decode_op7 h]; exact ⟨Word.layoutX_of_op h, Word.not_unnamed_of_op h (by decide)⟩
  · rw [decode_op8 h]; exact decodeOp8_reads h
  · rw [decode_op9 h]; exact ⟨Word.layoutXY_of_op h, Word.not_unnamed_of_op h (by decide)⟩
  · rw [decode_opA h]; exact ⟨Word.layoutA_of_op h, Word.not_unnamed_of_op h (by decide)⟩
  · rw [decode_opB h]; exact ⟨Word.layoutA_of_op h, Word.not_unnamed_of_op h (by decide)⟩
  · rw [decode_opC h]; exact ⟨Word.layoutX_of_op h, Word.not_unnamed_of_op h (by decide)⟩
  · rw [decode_opD h]; exact ⟨Word.layoutXY_of_op h, Word.not_unnamed_of_op h (by decide)⟩
  · rw [decode_opE h]; exact decodeOpE_reads h
  · rw [decode_opF h]; exact decodeOpF_reads h

theorem encode_of_decode {w : Word} {i : Instr} (h : decode w = .named i) : encode i = w := by
  have hr := decode_reads w
  rw [h] at hr
  exact hr.1

theorem decode_eq_unknown_iff {w u : Word} : decode w = .unknown u ↔ u = w ∧ Word.Unnamed w := by
  have hr := decode_reads w
  cases hd : decode w with
  | named i =>
    rw [hd] at hr
    exact iff_of_false nofun fun hu => hr.2 hu.2
  | unknown v =>
    rw [hd] at hr
    obtain ⟨rfl, hv⟩ := hr
    simp [hv, eq_comm]

/-- Decoding the word of an instruction: op selects the constructor, or the family whose sub-opcode selects it, and
each field is read back from where its layout put it (R102, R105). -/
theorem decode_encode (i : Instr) : decode (encode i) = .named i := by
  cases i with
  | clearScreen | ret => rfl
  | jump nnn => rw [encode, decode_op1 (layoutA_op ..), layoutA_nnn]
  | call nnn => rw [encode, decode_op2 (layoutA_op ..), layoutA_nnn]
  | skipEqImm x nn => rw [encode, decode_op3 (layoutX_op ..), layoutX_x, layoutX_nn]
  | skipNeImm x nn => rw [encode, decode_op4 (layoutX_op ..), layoutX_x, layoutX_nn]
  | skipEqReg x y n => rw [encode, decode_op5 (layoutXY_op ..), layoutXY_x, layoutXY_y, layoutXY_n]
  | setReg x nn => rw [encode, decode_op6 (layoutX_op ..), layoutX_x, layoutX_nn]
  | addToReg x nn => rw [encode, decode_op7 (layoutX_op ..), layoutX_x, layoutX_nn]
  | set x y | or x y | and x y | xor x y | add x y | subtract x y | shiftRight x y | subtractReverse x y
  | shiftLeft x y =>
    rw [encode, decode_op8 (layoutXY_op ..), decodeOp8, layoutXY_x, layoutXY_y, layoutXY_n]; rfl
  | skipNeReg x y n => rw [encode, decode_op9 (layoutXY_op ..), layoutXY_x, layoutXY_y, layoutXY_n]
  | setIndex nnn => rw [encode, decode_opA (layoutA_op ..), layoutA_nnn]
  | jumpWithOffset nnn => rw [encode, decode_opB (layoutA_op ..), layoutA_nnn]
  | random x nn => rw [encode, decode_opC (layoutX_op ..), layoutX_x, layoutX_nn]
  | draw x y n => rw [encode, decode_opD (layoutXY_op ..), layoutXY_x, layoutXY_y, layoutXY_n]
  | skipKeyPressed x | skipKeyNotPressed x =>
    rw [encode, decode_opE (layoutX_op ..), decodeOpE, layoutX_x, layoutX_nn]; rfl
  | readDelayTimer x | waitForKeypress x | setDelayTimer x | setSoundTimer x | addToIndex x | getFontChar x
  | bcdConversion x | store x | load x =>
    rw [encode, decode_opF (layoutX_op ..), decodeOpF, layoutX_x, layoutX_nn]; rfl

/-! ### The rows of the opcode map -/

/-- The family RowEncoding, gathered: the word of every instruction matches the instruction's row (R112). -/
theorem encode_matchesRow (i : Instr) : Word.matchesRow (encode i) i.row = true := by
  refine decide_eq_true ?_
  cases i with
  | clearScreen => exact Laws.RowEncoding.clearScreen
  | ret => exact Laws.RowEncoding.ret
  | jump nnn => exact Laws.RowEncoding.jump nnn
  | call nnn => exact Laws.RowEncoding.call nnn
  | skipEqImm x nn => exact Laws.RowEncoding.skipEqImm x nn
  | skipNeImm x nn => exact Laws.RowEncoding.skipNeImm x nn
  | skipEqReg x y n => exact Laws.RowEncoding.skipEqReg x y n
  | setReg x nn => exact Laws.RowEncoding.setReg x nn
  | addToReg x nn => exact Laws.RowEncoding.addToReg x nn
  | set x y => exact Laws.RowEncoding.set x y
  | or x y => exact Laws.RowEncoding.or x y
  | and x y => exact Laws.RowEncoding.and x y
  | xor x y => exact Laws.RowEncoding.xor x y
  | add x y => exact Laws.RowEncoding.add x y
  | subtract x y => exact Laws.RowEncoding.subtract x y
  | shiftRight x y => exact Laws.RowEncoding.shiftRight x y
  | subtractReverse x y => exact Laws.RowEncoding.subtractReverse x y
  | shiftLeft x y => exact Laws.RowEncoding.shiftLeft x y
  | skipNeReg x y n => exact Laws.RowEncoding.skipNeReg x y n
  | setIndex nnn => exact Laws.RowEncoding.setIndex nnn
  | jumpWithOffset nnn => exact Laws.RowEncoding.jumpWithOffset nnn
  | random x nn => exact Laws.RowEncoding.random x nn
  | draw x y n => exact Laws.RowEncoding.draw x y n
  | skipKeyPressed x => exact Laws.RowEncoding.skipKeyPressed x
  | skipKeyNotPressed x => exact Laws.RowEncoding.skipKeyNotPressed x
  | readDelayTimer x => exact Laws.RowEncoding.readDelayTimer x
  | waitForKeypress x => exact Laws.RowEncoding.waitForKeypress x
  | setDelayTimer x => exact Laws.RowEncoding.setDelayTimer x
  | setSoundTimer x => exact Laws.RowEncoding.setSoundTimer x
  | addToIndex x => exact Laws.RowEncoding.addToIndex x
  | getFontChar x => exact Laws.RowEncoding.getFontChar x
  | bcdConversion x => exact Laws.RowEncoding.bcdConversion x
  | store x => exact Laws.RowEncoding.store x
  | load x => exact Laws.RowEncoding.load x

theorem Instr.row_mem_opcodeRows (i : Instr) : i.row ∈ opcodeRows := by
  cases i <;> exact List.mem_of_elem_eq_true rfl

/-- The matches of the two rows differ where both masks look, so that no word matches both. -/
abbrev RowsApart (r q : Word × Word) : Prop := r.2 &&& q.1 ≠ q.2 &&& r.1

theorem rowsApart_symm : Std.Symm RowsApart := ⟨fun _ _ => Ne.symm⟩

theorem opcodeRows_pairwise_apart : opcodeRows.Pairwise RowsApart := by decide

theorem opcodeRows_nodup : opcodeRows.Nodup :=
  opcodeRows_pairwise_apart.imp fun hapart heq => hapart (by rw [heq])

theorem Word.not_rowsApart_of_matchesRow {w : Word} {r q : Word × Word} (hr : Word.matchesRow w r = true)
    (hq : Word.matchesRow w q = true) : ¬ RowsApart r q := by
  rw [RowsApart, ← of_decide_eq_true hr, ← of_decide_eq_true hq, not_not, BitVec.and_assoc, BitVec.and_assoc,
    BitVec.and_comm r.1]

/-- The rows of the map that one word matches are one row (R112). -/
theorem Word.matchesRow_unique {w : Word} {r q : Word × Word} (hr : r ∈ opcodeRows) (hq : q ∈ opcodeRows)
    (hwr : Word.matchesRow w r = true) (hwq : Word.matchesRow w q = true) : r = q := by
  have := rowsApart_symm
  by_contra hne
  exact Word.not_rowsApart_of_matchesRow hwr hwq (opcodeRows_pairwise_apart.forall hr hq hne)

/-- Each row's mask keeps op and the field that resolves its op, and the match has a named value there (R106 to
R109). -/
theorem opcodeRows_named : ∀ r ∈ opcodeRows, Word.op r.1 = BitVec.allOnes 4 ∧
    (Word.op r.2 = 0x0#4 → Word.nnn r.1 = BitVec.allOnes 12 ∧ Word.nnn r.2 ∈ namedOp0) ∧
    (Word.op r.2 = 0x8#4 → Word.n r.1 = BitVec.allOnes 4 ∧ Word.n r.2 ∈ namedOp8) ∧
    (Word.op r.2 = 0xE#4 → Word.nn r.1 = BitVec.allOnes 8 ∧ Word.nn r.2 ∈ namedOpE) ∧
    (Word.op r.2 = 0xF#4 → Word.nn r.1 = BitVec.allOnes 8 ∧ Word.nn r.2 ∈ namedOpF) :=
  List.forall_iff_forall_mem.mp (by decide)

/-- A mask with ones at `nnn` keeps nnn. -/
theorem Word.nnn_and_mask (w : Word) {m : Word} (h : Word.nnn m = BitVec.allOnes 12) :
    Word.nnn (w &&& m) = Word.nnn w := by
  have hand : Word.nnn (w &&& m) = Word.nnn w &&& Word.nnn m := BitVec.extractLsb'_and
  rw [hand, h, BitVec.and_allOnes]

/-- A word that matches a row has a name: the row's mask shows the field in which it would lack one. -/
theorem Word.not_unnamed_of_matchesRow {w : Word} {r : Word × Word} (hr : r ∈ opcodeRows)
    (h : Word.matchesRow w r = true) : ¬ Word.Unnamed w := by
  replace h : w &&& r.1 = r.2 := of_decide_eq_true h
  obtain ⟨hop, h0, h8, hE, hF⟩ := opcodeRows_named r hr
  rw [← h, Word.op_and_mask w hop] at h0 h8 hE hF
  rintro (⟨hw, hn⟩ | ⟨hw, hn⟩ | ⟨hw, hn⟩ | ⟨hw, hn⟩)
  · obtain ⟨hm, hv⟩ := h0 hw; rw [Word.nnn_and_mask w hm] at hv; exact hn hv
  · obtain ⟨hm, hv⟩ := h8 hw; rw [Word.n_and_mask w hm] at hv; exact hn hv
  · obtain ⟨hm, hv⟩ := hE hw; rw [Word.nn_and_mask w hm] at hv; exact hn hv
  · obtain ⟨hm, hv⟩ := hF hw; rw [Word.nn_and_mask w hm] at hv; exact hn hv

/-- Of the rows of the map, the word of `i` matches the row of `i` alone. -/
theorem matchesRow_encode_eq {i : Instr} {r : Word × Word} (hr : r ∈ opcodeRows) :
    Word.matchesRow (encode i) r = (r == i.row) := by
  rw [Bool.eq_iff_iff, beq_iff_eq]
  constructor
  · intro h; exact Word.matchesRow_unique hr i.row_mem_opcodeRows h (encode_matchesRow i)
  · rintro rfl; exact encode_matchesRow i

end Sys2Proof

namespace Sys2Proof.Machine

/-! ### The statements -/

/-- Settles O1, by the constructors of the instruction. -/
theorem decodeOfEncodeIsTheInstruction : Obligations.DecodeOfEncodeIsTheInstruction :=
  fun i _ => decode_encode i

/-- Settles O2: the decoder's answer, where named, is an instruction of that word. -/
theorem encodeOfDecodedIsTheWord : Obligations.EncodeOfDecodedIsTheWord :=
  fun _ _ => encode_of_decode

/-- Settles O3: Unknown is the answer for the words without a name, and executing one is the raise. -/
theorem unknownIsExactlyTheUnnamedWords : Obligations.UnknownIsExactlyTheUnnamedWords := by
  refine ⟨fun w => ?_, fun w u h => (decode_eq_unknown_iff.mp h).1, fun w s => ⟨_, rfl, rfl⟩⟩
  rw [decode_eq_unknown_iff, Word.unnamed_iff]
  exact and_iff_right rfl

/-- Settles O4: a named word is the word of its instruction and matches that row alone; a word that matches a row is
not Unknown. -/
theorem everyWordMatchesAtMostOneRow : Obligations.EveryWordMatchesAtMostOneRow := by
  constructor
  · intro w i h
    rw [← encode_of_decode h, List.filter_congr fun r hr => matchesRow_encode_eq hr, List.filter_beq,
      List.count_eq_one_of_mem opcodeRows_nodup i.row_mem_opcodeRows, List.replicate_one]
  · intro w u h
    rw [List.filter_eq_nil_iff]
    intro r hr hm
    exact Word.not_unnamed_of_matchesRow hr hm (decode_eq_unknown_iff.mp h).2

/-- Settles O5, by running the decoder on the words. -/
theorem wordsWrittenFromTheMapDecode : Obligations.WordsWrittenFromTheMapDecode := by
  unfold Obligations.WordsWrittenFromTheMapDecode
  decide

/-- Settles O6: the meanings of the two skips do not mention `n`, nor those of the two shifts `y`. -/
theorem ignoredBitsHaveNoEffect : Obligations.IgnoredBitsHaveNoEffect :=
  fun _ _ _ _ _ _ => ⟨rfl, rfl, rfl, rfl⟩

end Sys2Proof.Machine
end

section
/-! PROOFS. The step cycle (R140, R141, R143, R144, R146) and the ticks before it (R149, R300). Each lemma of the step
says which conditions on the state select one case of the fetch or of the engine step; `step_cases` and
`engineStep_cases` are their converses. -/

namespace Sys2Proof.Machine

/-! ### Ticks, one and then the rest -/

/-- The countdown stops at 0, so one and then `k` leave what `k + 1` leave (R300). -/
theorem countMany_countOne (k : Nat) (t : Byte) : countMany k (countOne t) = countMany (k + 1) t := by
  apply BitVec.eq_of_toNat_eq
  rw [countMany_toNat, countMany_toNat, countOne_toNat]; omega

theorem State.tick_stopped {s : State} (h : s.stop = true) : s.tick = s := by
  simp [State.tick, h]

theorem State.tick_running {s : State} (h : s.stop = false) :
    s.tick = (s.setDt (countOne s.dt)).setSt (countOne s.st) := by
  simp [State.tick, h]

/-- A tick keeps the stop flag, so with the flag raised none of the ticks happens and with it clear all of them do. -/
theorem State.tickMany_tick (s : State) (k : Nat) : s.tick.tickMany k = s.tickMany (k + 1) := by
  cases h : s.stop with
  | true => rw [State.tick_stopped h, State.tickMany_stopped h, State.tickMany_stopped h]
  | false =>
    rw [State.tick_running h, State.tickMany_running h, ← countMany_countOne, ← countMany_countOne]
    exact State.tickMany_running (s := (s.setDt (countOne s.dt)).setSt (countOne s.st)) h k

@[simp] theorem State.tickMany_zero (s : State) : s.tickMany 0 = s := by
  cases h : s.stop with
  | true => exact State.tickMany_stopped h 0
  | false => rw [State.tickMany_running h, countMany_zero, countMany_zero]; rfl

/-! ### The cases of the fetch and of the engine step -/

/-- Outside the window a fetch raises FetchOutOfBounds, at even and odd addresses alike (R141). -/
theorem fetchFault_of_outside {a : Word} (h : a.toNat < 0x200 ∨ 0xFFE < a.toNat) :
    fetchFault a = some .fetchOutOfBounds :=
  if_pos h

/-- Inside the window a fetch at an odd address raises MisalignedFetch (R141). -/
theorem fetchFault_of_odd {a : Word} (hlo : 0x200 ≤ a.toNat) (hhi : a.toNat ≤ 0xFFE) (hodd : a.toNat % 2 = 1) :
    fetchFault a = some .misalignedFetch := by
  unfold fetchFault
  rw [if_neg (by omega), if_pos hodd]

theorem engineStep_of_fetchFault {s : State} {cause : Cause} (h : fetchFault s.pc = some cause) :
    engineStep s = .next (s.raise cause none none) := by
  simp only [engineStep, h, State.raiseFetch]

theorem engineStep_of_named {s : State} {i : Instr} (hpc : fetchFault s.pc = none)
    (hi : decode s.fetchWord = .named i) : engineStep s = exec i s := by
  simp only [engineStep, hpc, hi]

/-! ### The cases of the step -/

theorem step_of_engineStep {s t : State} (hs : s.status = .running) (h : engineStep s.elapse = .next t) :
    step s = .next t.consume := by
  rw [step_running hs, h, settle]

/-- A step whose fetch faults answers the raise after the ticks before it: ticks leave PC alone. -/
theorem step_of_fetchFault {s : State} {cause : Cause} (hs : s.status = .running)
    (h : fetchFault s.pc = some cause) : step s = .next (s.elapse.raise cause none none).consume :=
  step_of_engineStep hs (engineStep_of_fetchFault (by rwa [State.elapse_pc]))

/-- A step is enabled exactly in a Running state (R140, R146). -/
theorem step_next_iff (s : State) : (∃ t, step s = .next t) ↔ s.status = .running := by
  constructor
  · rintro ⟨t, ht⟩
    exact (step_cases ht).1
  · intro hs
    obtain ⟨t, ht⟩ := engineStep_next s.elapse
    exact ⟨_, step_of_engineStep hs ht⟩

theorem step_of_faulted {s : State} {rec : FaultRecord} (h : s.status = .faulted rec) :
    step s = .fault (.halted rec) := by
  simp only [step, h]

theorem step_of_stopped {s : State} (h : s.status = .stopped) : step s = .refused .stopped := by
  simp only [step, h]

/-! ### The statements -/

/-- Settles O44, by induction on the number of ticks: the first one is done, the rest are done from there. -/
theorem manyTicksAreTicksOneByOne : Obligations.ManyTicksAreTicksOneByOne := by
  intro k
  induction k with
  | zero => exact State.tickMany_zero
  | succ k ih =>
    intro s
    calc s.tickMany (k + 1) = s.tick.tickMany k := (s.tickMany_tick k).symm
      _ = State.tick^[k] s.tick := ih s.tick
      _ = State.tick^[k + 1] s := (Function.iterate_succ_apply State.tick k s).symm

/-- Settles O7: ticks leave PC and memory alone, so the step after them fetches the same word, and every instruction
answers a next state. -/
theorem stepRunsTheDecodedInstruction : Obligations.StepRunsTheDecodedInstruction := by
  intro s i ⟨hs, hpc⟩ _ hi
  obtain ⟨t, ht⟩ := exec_next i s.elapse
  have hstep : engineStep s.elapse = exec i s.elapse :=
    engineStep_of_named (by rwa [State.elapse_pc]) (by rwa [State.elapse_fetchWord])
  exact ⟨t, ht, step_of_engineStep hs (hstep.trans ht)⟩

/-- Settles O9: the check that fails first names the cause, and the step is the raise of that cause. -/
theorem fetchChecksInOrder : Obligations.FetchChecksInOrder := by
  intro s hs
  constructor
  · intro houtside
    exact ⟨_, step_of_fetchFault hs (fetchFault_of_outside houtside), rfl⟩
  · rintro ⟨hlo, hhi, hodd⟩
    exact ⟨_, step_of_fetchFault hs (fetchFault_of_odd hlo hhi hodd), rfl⟩

/-- Settles O11: one answer of the step for each status. -/
theorem stepIsEnabledExactlyWhenRunning : Obligations.StepIsEnabledExactlyWhenRunning :=
  ⟨step_next_iff, fun _ _ => step_of_faulted, fun _ => step_of_stopped⟩

end Sys2Proof.Machine
end

section
/-! PROOFS. Control flow (R170 to R178). Said once: what a row of the opcode map needs to decode, that a transfer
changes PC alone, and where a skip, a `call` and a `return` lead in each of their cases; the statements follow. -/

namespace Sys2Proof.Machine

/-! ### Rows of the opcode map -/

/-- A row whose mask is F000 decodes as soon as its op does (R105, R112). -/
theorem decodesAs_of_op {row : Word} {f : Word → Instr} {op : Nibble} (hrow : Word.op row = op)
    (hdecode : ∀ {w : Word}, Word.op w = op → decode w = .named (f w)) : DecodesAs 0xF000#16 row f :=
  fun _ hw => hdecode ((Word.op_of_F000 hw).trans hrow)

/-- A row whose mask is FFFF is one word (R106, R112). -/
theorem decodesAs_of_word {row : Word} {i : Instr} (hdecode : decode row = .named i) :
    DecodesAs 0xFFFF#16 row (fun _ => i) := by
  intro w hw
  have hword : w = row := BitVec.and_allOnes.symm.trans hw
  rw [hword, hdecode]

/-! ### Targets in numbers -/

theorem zextAddr_toNat (nnn : Addr12) : (zextAddr nnn).toNat = nnn.toNat := by
  simp only [zextAddr, BitVec.toNat_setWidth]; omega

theorem zextByte_toNat (b : Byte) : (zextByte b).toNat = b.toNat := by
  simp only [zextByte, BitVec.toNat_setWidth]; omega

/-! ### Frames of a transfer -/

/-- A transfer changes PC and nothing else. -/
theorem State.setPc_allButPcKept (s : State) (target : Word) : AllButPcKept s (s.setPc target) :=
  ⟨fun _ _ => rfl, fun _ => rfl, rfl, rfl, ⟨rfl, rfl⟩, rfl, rfl, rfl, rfl, rfl⟩

/-- A transfer through the stack changes PC and the stack and nothing else. -/
theorem State.setStack_setPc_allButPcStackKept (s : State) (stack : List Word) (target : Word) :
    AllButPcStackKept s ((s.setStack stack).setPc target) :=
  ⟨fun _ _ => rfl, fun _ => rfl, rfl, ⟨rfl, rfl⟩, rfl, rfl, rfl, rfl, rfl⟩

/-! ### Where an instruction leads -/

/-- A skip sets PC to addr + 4 when taken, else to addr + 2 (R22, R38). -/
theorem State.advance_skipIf (s : State) (taken : Bool) :
    s.advance.skipIf taken = s.setPc (if taken then s.pc + 4#16 else s.pc + 2#16) := by
  rw [State.skipIf_eq, State.advance_pc, BitVec.add_assoc]
  rfl

/-- An instruction that skips on `p` leads to addr + 4 or addr + 2 and keeps everything else (R174, R176). -/
theorem exec_skip {i : Instr} {s : State} {p : Prop} [Decidable p]
    (h : exec i s = .next (s.advance.skipIf (decide p))) :
    ∃ t, exec i s = .next t ∧ t.pc = (if p then s.pc + 4#16 else s.pc + 2#16) ∧ AllButPcKept s t := by
  rw [State.advance_skipIf] at h
  exact ⟨_, h, by simp, s.setPc_allButPcKept _⟩

/-- An instruction that skips on the negation of `p` leads there the other way round (R175, R177). -/
theorem exec_skip_not {i : Instr} {s : State} {p : Prop} [Decidable p]
    (h : exec i s = .next (s.advance.skipIf (decide ¬p))) :
    ∃ t, exec i s = .next t ∧ t.pc = (if p then s.pc + 2#16 else s.pc + 4#16) ∧ AllButPcKept s t := by
  simpa only [ite_not] using exec_skip h

/-- Below depth 16 a `call` pushes addr + 2 and jumps (R172). -/
theorem exec_call_of_lt {s : State} (nnn : Addr12) (h : s.stack.length < Config.stackDepth) :
    exec (.call nnn) s = .next ((s.setStack ((s.pc + 2#16) :: s.stack)).setPc (zextAddr nnn)) :=
  congrArg Host.Outcome.next (if_pos h)

/-- At depth 16 a `call` raises StackOverflow (R172). -/
theorem exec_call_of_full {s : State} (nnn : Addr12) (h : Config.stackDepth ≤ s.stack.length) :
    exec (.call nnn) s = .next (s.raise .stackOverflow (some (encode (.call nnn))) none) :=
  congrArg Host.Outcome.next (if_neg (Nat.not_lt.mpr h))

/-- With a non-empty stack a `return` pops into PC (R173). -/
theorem exec_ret_of_cons {s : State} {target : Word} {rest : List Word} (h : s.stack = target :: rest) :
    exec .ret s = .next ((s.setStack rest).setPc target) := by
  simp only [exec, execRet, h]
  rfl

/-- With an empty stack a `return` raises StackUnderflow (R173). -/
theorem exec_ret_of_nil {s : State} (h : s.stack = []) :
    exec .ret s = .next (s.raise .stackUnderflow (some (encode .ret)) none) := by
  simp only [exec, execRet, h]

/-! ### The statements -/

/-- Settles O15: the target is the zero-extended field. -/
theorem jumpSetsPc : Obligations.JumpSetsPc := by
  refine ⟨decodesAs_of_op rfl decode_op1, fun nnn s => ?_⟩
  exact ⟨s.setPc (zextAddr nnn), rfl, zextAddr_toNat nnn, s.setPc_allButPcKept _⟩

/-- Settles O16: the target is the sum of the two zero-extensions, mod 2^16. -/
theorem jumpWithOffsetAddsV0 : Obligations.JumpWithOffsetAddsV0 := by
  refine ⟨decodesAs_of_op rfl decode_opB, fun nnn s => ?_⟩
  refine ⟨s.setPc (zextAddr nnn + zextByte (s.reg 0x0#4)), rfl, ?_, s.setPc_allButPcKept _⟩
  rw [State.setPc_pc, BitVec.toNat_add, zextAddr_toNat, zextByte_toNat]

/-- Settles O17, by the two cases of the depth. -/
theorem callPushesAndJumpsOrOverflows : Obligations.CallPushesAndJumpsOrOverflows := by
  refine ⟨decodesAs_of_op rfl decode_op2, fun nnn s hlt => ?_, fun nnn s hfull => ?_⟩
  · exact ⟨_, exec_call_of_lt nnn hlt, zextAddr_toNat nnn, rfl, s.setStack_setPc_allButPcStackKept _ _⟩
  · exact ⟨_, exec_call_of_full nnn hfull, rfl⟩

/-- Settles O18, by the two cases of the stack. -/
theorem returnPopsOrUnderflows : Obligations.ReturnPopsOrUnderflows := by
  refine ⟨decodesAs_of_word (by decide), fun s target rest hcons => ?_, fun s hnil => ?_⟩
  · exact ⟨_, exec_ret_of_cons hcons, rfl, rfl, s.setStack_setPc_allButPcStackKept _ _⟩
  · exact ⟨_, exec_ret_of_nil hnil, rfl⟩

/-- Settles O19: the stack a `call` left has addr + 2 on top of the stack of before, and a `return` pops it. -/
theorem returnComesBackAfterCall : Obligations.ReturnComesBackAfterCall := by
  intro nnn s t u hlt hcall hstack
  rw [exec_call_of_lt nnn hlt] at hcall
  cases hcall
  exact ⟨_, exec_ret_of_cons hstack, BitVec.toNat_add s.pc 2#16, rfl⟩

/-- Settles O20: both skips test V[x] = nn, the second its negation. -/
theorem skipsOnImmediate : Obligations.SkipsOnImmediate :=
  ⟨decodesAs_of_op rfl decode_op3, decodesAs_of_op rfl decode_op4, fun _ _ _ => ⟨exec_skip rfl, exec_skip_not rfl⟩⟩

/-- Settles O21: both skips test V[x] = V[y], the second its negation, whatever n is. -/
theorem skipsOnRegister : Obligations.SkipsOnRegister :=
  ⟨decodesAs_of_op rfl decode_op5, decodesAs_of_op rfl decode_op9,
    fun _ _ _ _ => ⟨exec_skip rfl, exec_skip_not rfl⟩⟩

end Sys2Proof.Machine
end

section
/-! PROOFS. Registers and the ALU (R190 to R203). Said once: what a row of op 8 needs to decode, what a register write
and a register write with a flag leave, and what the results and the flags are in numbers; the statements follow. -/

namespace Sys2Proof.Machine

/-! ### Rows of op, x, y and n -/

/-- A row whose mask is F00F decodes as the instruction its words encode (R107, R112). -/
theorem decodesAs_of_encode {row : Word} (f : Reg → Reg → Instr)
    (hencode : ∀ x y, encode (f x y) = layoutXY (Word.op row) x y (Word.n row)) :
    DecodesAs 0xF00F#16 row (fun w => f (Word.x w) (Word.y w)) := by
  intro w hw
  obtain ⟨hop, hn⟩ := Word.op_n_of_F00F hw
  have hword : encode (f (Word.x w) (Word.y w)) = w := by rw [hencode, ← hop, ← hn, Word.layoutXY_fields]
  rw [← decode_encode, hword]

/-! ### A result, with and without a flag -/

theorem State.setReg_reg_same (s : State) (x : Reg) (b : Byte) : (s.setReg x b).reg x = b := by
  rw [State.setReg_reg, if_pos rfl]

/-- The result stays in V[x] unless the flag is written over it (R203). -/
theorem State.setRegFlag_reg_same {s : State} {x : Reg} {b : Byte} {f : Bool} (hx : x ≠ VF) :
    (s.setRegFlag x b f).reg x = b := by
  rw [State.setRegFlag_reg, if_neg hx, if_pos rfl]

/-- After the advance a register write changes V[x] and nothing else. -/
theorem State.advance_setReg_writesOnlyRegs (s : State) (x : Reg) (b : Byte) :
    WritesOnlyRegs [x] s (s.advance.setReg x b) := by
  refine ⟨rfl, fun r hr => ?_, fun _ => rfl, rfl, rfl, ⟨rfl, rfl⟩, rfl, rfl, rfl, rfl, rfl⟩
  exact State.setReg_reg_other (List.ne_of_not_mem_cons hr)

/-- After the advance a result and its flag change V[x] and VF and nothing else. -/
theorem State.advance_setRegFlag_writesOnlyRegs (s : State) (x : Reg) (b : Byte) (f : Bool) :
    WritesOnlyRegs [x, VF] s (s.advance.setRegFlag x b f) := by
  refine ⟨rfl, fun r hr => ?_, fun _ => rfl, rfl, rfl, ⟨rfl, rfl⟩, rfl, rfl, rfl, rfl, rfl⟩
  exact State.setRegFlag_reg_other (List.ne_of_not_mem_cons hr)
    (List.ne_of_not_mem_cons (List.not_mem_of_not_mem_cons hr))

/-! ### Results in numbers -/

/-- A difference of bytes wraps at 256 (R198, R199). -/
theorem Byte.sub_toNat (a b : Byte) : (a - b).toNat = (256 + a.toNat - b.toNat) % 256 := by
  rw [BitVec.toNat_sub]; omega

/-! ### Flags in numbers -/

theorem flagByte_carryFlag (a b : Byte) :
    flagByte (carryFlag a b) = if a.toNat + b.toNat > 255 then 1#8 else 0#8 := by
  simp only [flagByte, carryFlag, decide_eq_true_eq, gt_iff_lt]

theorem flagByte_greaterFlag (a b : Byte) : flagByte (greaterFlag a b) = if a.toNat > b.toNat then 1#8 else 0#8 := by
  simp only [flagByte, greaterFlag, decide_eq_true_eq, gt_iff_lt]

theorem flagByte_toNat (f : Bool) : (flagByte f).toNat = f.toNat := by
  cases f <;> rfl

/-- A right shift moves out bit 0 (R200). -/
theorem flagByte_shiftedOutRight_toNat (a : Byte) : (flagByte (shiftedOutRight a)).toNat = a.toNat % 2 := by
  have hbit : (shiftedOutRight a).toNat = a.toNat / 2 ^ 0 % 2 := Nat.toNat_testBit a.toNat 0
  rw [flagByte_toNat, hbit]; omega

/-- A left shift moves out bit 7, the top bit of a byte (R201). -/
theorem flagByte_shiftedOutLeft_toNat (a : Byte) : (flagByte (shiftedOutLeft a)).toNat = a.toNat / 128 := by
  have hbit : (shiftedOutLeft a).toNat = a.toNat / 2 ^ 7 % 2 := Nat.toNat_testBit a.toNat 7
  rw [flagByte_toNat, hbit]; omega

/-! ### The two subtractions -/

/-- An instruction that subtracts `b` from `a` leaves the wrapped difference in V[x] for x other than F, and in VF the
strict comparison (R198, R199). -/
theorem exec_subtraction {i : Instr} {x : Reg} {a b : Byte} {s : State}
    (h : exec i s = .next (s.advance.setRegFlag x (a - b) (greaterFlag a b))) :
    ∃ t, exec i s = .next t ∧ WritesOnlyRegs [x, VF] s t ∧
      (x ≠ VF → (t.reg x).toNat = (256 + a.toNat - b.toNat) % 256) ∧
      t.reg VF = (if a.toNat > b.toNat then 1#8 else 0#8) := by
  refine ⟨_, h, s.advance_setRegFlag_writesOnlyRegs _ _ _, fun hx => ?difference, ?flag⟩
  case difference => rw [State.setRegFlag_reg_same hx, Byte.sub_toNat]
  case flag => rw [State.setRegFlag_VF, flagByte_greaterFlag]

/-! ### The statements -/

/-- Settles O22: both forms write V[x] alone, the second a sum mod 256. -/
theorem immediateRegisterWrites : Obligations.ImmediateRegisterWrites := by
  refine ⟨decodesAs_of_op rfl decode_op6, decodesAs_of_op rfl decode_op7, fun x nn s => ⟨?setReg, ?addToReg⟩⟩
  case setReg =>
    exact ⟨_, rfl, State.setReg_reg_same _ _ _, s.advance_setReg_writesOnlyRegs _ _⟩
  case addToReg =>
    refine ⟨_, rfl, ?_, s.advance_setReg_writesOnlyRegs _ _⟩
    rw [State.setReg_reg_same, BitVec.toNat_add]

/-- Settles O23: each form writes V[x] alone, and the bits of its result are those of the operation. -/
theorem registerFormsWithoutFlag : Obligations.RegisterFormsWithoutFlag := by
  refine ⟨decodesAs_of_encode .set fun _ _ => rfl, decodesAs_of_encode .or fun _ _ => rfl,
    decodesAs_of_encode .and fun _ _ => rfl, decodesAs_of_encode .xor fun _ _ => rfl,
    fun x y s => ⟨?set, ?or, ?and, ?xor⟩⟩
  case set => exact ⟨_, rfl, State.setReg_reg_same _ _ _, s.advance_setReg_writesOnlyRegs _ _⟩
  case or =>
    refine ⟨_, rfl, s.advance_setReg_writesOnlyRegs _ _, fun k => ?_⟩
    rw [State.setReg_reg_same, BitVec.getLsbD_or]
  case and =>
    refine ⟨_, rfl, s.advance_setReg_writesOnlyRegs _ _, fun k => ?_⟩
    rw [State.setReg_reg_same, BitVec.getLsbD_and]
  case xor =>
    refine ⟨_, rfl, s.advance_setReg_writesOnlyRegs _ _, fun k => ?_⟩
    rw [State.setReg_reg_same, BitVec.getLsbD_xor]

/-- Settles O24: the flag is written over the result, so the sum is claimed for x other than F only. -/
theorem addSetsSumAndCarry : Obligations.AddSetsSumAndCarry := by
  refine ⟨decodesAs_of_encode .add fun _ _ => rfl, fun x y s => ?_⟩
  refine ⟨_, rfl, s.advance_setRegFlag_writesOnlyRegs _ _ _, fun hx => ?sum, ?carry⟩
  case sum => rw [State.setRegFlag_reg_same hx, BitVec.toNat_add]
  case carry => rw [State.setRegFlag_VF, flagByte_carryFlag]

/-- Settles O25: a subtraction V[x] - V[y]. -/
theorem subtractSetsDifferenceAndFlag : Obligations.SubtractSetsDifferenceAndFlag :=
  ⟨decodesAs_of_encode .subtract fun _ _ => rfl, fun _ _ _ => exec_subtraction rfl⟩

/-- Settles O26: a subtraction V[y] - V[x]. -/
theorem subtractReverseSetsDifferenceAndFlag : Obligations.SubtractReverseSetsDifferenceAndFlag :=
  ⟨decodesAs_of_encode .subtractReverse fun _ _ => rfl, fun _ _ _ => exec_subtraction rfl⟩

/-- Settles O27: both shifts work on V[x] in place, and the bit moved out is the flag. -/
theorem shiftsMoveOneBitToVF : Obligations.ShiftsMoveOneBitToVF := by
  refine ⟨decodesAs_of_encode .shiftRight fun _ _ => rfl, decodesAs_of_encode .shiftLeft fun _ _ => rfl,
    fun x y s => ⟨?right, ?left⟩⟩
  case right =>
    refine ⟨_, rfl, s.advance_setRegFlag_writesOnlyRegs _ _ _, fun hx => ?_, ?_⟩
    · rw [State.setRegFlag_reg_same hx, BitVec.toNat_ushiftRight, Nat.shiftRight_eq_div_pow]
    · rw [State.setRegFlag_VF, flagByte_shiftedOutRight_toNat]
  case left =>
    refine ⟨_, rfl, s.advance_setRegFlag_writesOnlyRegs _ _ _, fun hx => ?_, ?_⟩
    · rw [State.setRegFlag_reg_same hx, BitVec.toNat_shiftLeft, Nat.shiftLeft_eq]
    · rw [State.setRegFlag_VF, flagByte_shiftedOutLeft_toNat]

/-- Settles O28: the result is the draw and nn, and a host that fixes the draw gets the byte it fixed. -/
theorem randomMasksTheDraw : Obligations.RandomMasksTheDraw := by
  refine ⟨decodesAs_of_op rfl decode_opC, fun x nn s => ?_, fun _ _ => rfl⟩
  refine ⟨_, rfl, s.advance_setReg_writesOnlyRegs _ _, fun k => ?_⟩
  rw [State.setReg_reg_same, BitVec.getLsbD_and]

end Sys2Proof.Machine
end

section
/-! PROOFS. The index register and memory (R220 to R226). Said once: what a row of op F needs to decode, what a checked
access answers on each side of its bound, what a byte written by a run of bytes reads as, and what each kind of write
leaves alone; the statements follow. -/

namespace Sys2Proof.Machine

/-! ### Rows of op, x and nn -/

/-- A row whose mask is F0FF decodes as the instruction its words encode (R108, R109, R112). -/
theorem decodesAs_of_encode_x {row : Word} (f : Reg → Instr)
    (hencode : ∀ x, encode (f x) = layoutX (Word.op row) x (Word.nn row)) :
    DecodesAs 0xF0FF#16 row (fun w => f (Word.x w)) := by
  intro w hw
  obtain ⟨hop, hnn⟩ := Word.op_nn_of_F0FF hw
  have hword : encode (f (Word.x w)) = w := by rw [hencode, ← hop, ← hnn, Word.layoutX_fields]
  rw [← decode_encode, hword]

/-! ### The two sides of a range check -/

/-- An access to the bytes I to I + k completes when the last of them is at most 0xFFF (R75). -/
theorem State.accessing_of_le {s : State} {k : Nat} (w : Word) (done : State) (h : s.i.toNat + k ≤ 0xFFF) :
    s.accessing (k + 1) w done = done := by
  refine State.accessing_legal w done ?_
  rw [← Bool.not_eq_true, State.rangeIllegal_iff]; omega

/-- An access to the bytes I to I + k raises MemoryOutOfBounds when the last of them is above 0xFFF (R75, R226). -/
theorem State.accessing_faultsOutOfBounds {s : State} {k : Nat} (w : Word) (done : State)
    (h : 0xFFF < s.i.toNat + k) : FaultsOutOfBounds w s (s.accessing (k + 1) w done) := by
  have hillegal : s.rangeIllegal (k + 1) = true := by rw [State.rangeIllegal_iff]; omega
  exact ⟨s.firstIllegal, s.firstIllegal_toNat, State.accessing_illegal w done hillegal⟩

/-- A `bcd-conversion` whose range is legal completes (R75, R223). -/
theorem exec_bcdConversion_of_legal (x : Reg) {s : State} (h : s.i.toNat + 2 ≤ 0xFFF) :
    exec (.bcdConversion x) s =
      .next (s.advance.setMem (s.mem.writeBytes s.i.toNat (bcdDigits (s.reg x)))) :=
  congrArg Host.Outcome.next (State.accessing_of_le _ _ h)

/-- A `load` whose range is legal completes (R75, R225). -/
theorem exec_load_of_legal {x : Reg} {s : State} (h : s.i.toNat + x.toNat ≤ 0xFFF) :
    exec (.load x) s = .next (s.advance.loadRegs x) :=
  congrArg Host.Outcome.next (State.accessing_of_le _ _ h)

/-! ### What a write leaves to be read -/

/-- After a write of consecutive bytes the address at offset `k` reads as byte `k` of them (R71). -/
theorem Memory.read_writeBytes_add (m : Memory) (a : Nat) {bs : List Byte} {k : Nat} (hk : k < bs.length) :
    (m.writeBytes a bs).read (a + k) = bs[k] := by
  rw [Memory.read_writeBytes, dif_pos (by omega)]
  simp only [Nat.add_sub_cancel_left]

/-- The three digits in numbers: each fits a byte (R223). -/
theorem bcdDigits_toNat (v : Byte) :
    (bcdDigits v).map BitVec.toNat = [v.toNat / 100, v.toNat / 10 % 10, v.toNat % 10] := by
  simp only [bcdDigits, List.map, BitVec.toNat_ofNat, List.cons.injEq, and_true]
  omega

/-- The byte `bcd-conversion` leaves at offset `k` from where it writes is digit `k` (R223). -/
theorem Memory.read_writeBytes_bcdDigits (m : Memory) (a : Nat) (v : Byte) {k : Nat} (hk : k < 3) :
    ((m.writeBytes a (bcdDigits v)).read (a + k)).toNat = [v.toNat / 100, v.toNat / 10 % 10, v.toNat % 10][k] := by
  rw [Memory.read_writeBytes_add m a (bs := bcdDigits v) hk]
  exact (List.getElem_map BitVec.toNat).symm.trans (List.getElem_of_eq (bcdDigits_toNat v) hk)

/-- After the advance a load puts the byte at I + r in V[r] for r up to x (R225). -/
theorem State.advance_loadRegs_reg_of_le {s : State} {x r : Reg} (hr : r.toNat ≤ x.toNat) :
    (s.advance.loadRegs x).reg r = s.mem.read (s.i.toNat + r.toNat) := by
  rw [State.loadRegs_reg, if_pos hr, State.advance_mem, State.advance_i]

/-! ### Frames -/

/-- After the advance a write of I changes I and nothing else. -/
theorem State.advance_setI_allButPcIndexKept (s : State) (w : Word) : AllButPcIndexKept s (s.advance.setI w) :=
  ⟨fun _ _ => rfl, fun _ => rfl, rfl, ⟨rfl, rfl⟩, rfl, rfl, rfl, rfl, rfl⟩

/-- After the advance a write of memory changes memory and nothing else. -/
theorem State.advance_setMem_allButPcMemKept (s : State) (m : Memory) : AllButPcMemKept s (s.advance.setMem m) :=
  ⟨fun _ _ => rfl, rfl, rfl, ⟨rfl, rfl⟩, rfl, rfl, rfl, rfl, rfl⟩

/-- A write of `n` consecutive bytes from `a` on keeps every byte outside them. -/
theorem State.advance_setMem_memKeptOutside (s : State) (a : Nat) {n : Nat} {bs : List Byte} (hn : bs.length = n) :
    MemKeptOutside a n s (s.advance.setMem (s.mem.writeBytes a bs)) :=
  fun _ hb => Memory.read_writeBytes_outside s.mem a bs (hn ▸ hb)

theorem State.advance_loadRegs_pc (s : State) (x : Reg) : (s.advance.loadRegs x).pc = s.pc + 2#16 := by
  rw [State.loadRegs_eq]
  rfl

/-- After the advance a load changes the general registers and nothing else. -/
theorem State.advance_loadRegs_allButRegsKept (s : State) (x : Reg) : AllButRegsKept s (s.advance.loadRegs x) := by
  rw [State.loadRegs_eq]
  exact ⟨fun _ => rfl, rfl, rfl, ⟨rfl, rfl⟩, rfl, rfl, rfl, rfl, rfl⟩

/-! ### The statements -/

/-- Settles O32, by the two sides of the bound: within it the bytes at I, I + 1 and I + 2 are the digits. -/
theorem bcdStoresThreeDigits : Obligations.BcdStoresThreeDigits := by
  refine ⟨decodesAs_of_encode_x .bcdConversion fun _ => rfl, fun x s hlegal => ?completes,
    fun x s hillegal => ?faults⟩
  case completes =>
    have hdigit {k : Nat} (hk : k < 3) := Memory.read_writeBytes_bcdDigits s.mem s.i.toNat (s.reg x) hk
    exact ⟨_, exec_bcdConversion_of_legal x hlegal, rfl, hdigit (k := 0) (by decide), hdigit (k := 1) (by decide),
      hdigit (k := 2) (by decide), s.advance_setMem_memKeptOutside _ rfl, s.advance_setMem_allButPcMemKept _⟩
  case faults => exact ⟨_, rfl, State.accessing_faultsOutOfBounds _ _ hillegal⟩

/-- Settles O33, by the two sides of the bound: within it the bytes written are V0 to V[x]. -/
theorem storeCopiesRegisters : Obligations.StoreCopiesRegisters := by
  refine ⟨decodesAs_of_encode_x .store fun _ => rfl, fun x s hlegal => ?completes, fun x s hillegal => ?faults⟩
  case completes =>
    have hexec := exec_store_of_legal hlegal
    exact ⟨_, hexec, rfl, fun r hr => read_of_exec_store hr hlegal hexec,
      s.advance_setMem_memKeptOutside _ (s.length_regsUpTo x), s.advance_setMem_allButPcMemKept _⟩
  case faults => exact ⟨_, rfl, State.accessing_faultsOutOfBounds _ _ hillegal⟩

/-- Settles O34, by the two sides of the bound: within it a register up to x is loaded and one above x is kept. -/
theorem loadCopiesMemory : Obligations.LoadCopiesMemory := by
  refine ⟨decodesAs_of_encode_x .load fun _ => rfl, fun x s hlegal => ?completes, fun x s hillegal => ?faults⟩
  case completes =>
    refine ⟨_, exec_load_of_legal hlegal, s.advance_loadRegs_pc x, fun r hr => State.advance_loadRegs_reg_of_le hr,
      fun r hr => ?above, s.advance_loadRegs_allButRegsKept x⟩
    case above => rw [State.loadRegs_reg, if_neg (Nat.not_le.mpr hr), State.advance_reg]
  case faults => exact ⟨_, rfl, State.accessing_faultsOutOfBounds _ _ hillegal⟩

/-- Settles O35: the store left V[r] at I + r and did not move I, so that is where the load reads V[r]. -/
theorem loadRestoresWhatStoreSaved : Obligations.LoadRestoresWhatStoreSaved := by
  intro x s t u hlegal hstore hmem hindex
  have hi : u.i = s.i := by
    rw [exec_store_of_legal hlegal] at hstore
    cases hstore
    exact hindex
  refine ⟨_, exec_load_of_legal (hi ▸ hlegal), fun r hr => ?_⟩
  rw [State.advance_loadRegs_reg_of_le hr, hmem, hi, read_of_exec_store hr hlegal hstore]

/-- Settles O31: each form writes I alone, and only the sum of `add-to-index` can wrap. -/
theorem indexWrites : Obligations.IndexWrites := by
  refine ⟨decodesAs_of_op rfl decode_opA, decodesAs_of_encode_x .addToIndex fun _ => rfl,
    decodesAs_of_encode_x .getFontChar fun _ => rfl, fun nnn s => ?setIndex,
    fun x s => ⟨?addToIndex, ?getFontChar⟩⟩
  case setIndex => exact ⟨_, rfl, rfl, zextAddr_toNat nnn, s.advance_setI_allButPcIndexKept _⟩
  case addToIndex =>
    refine ⟨_, rfl, rfl, ?_, s.advance_setI_allButPcIndexKept _⟩
    rw [State.setI_i, BitVec.toNat_add, zextByte_toNat]
  case getFontChar => exact ⟨_, rfl, rfl, zextByte_toNat _, s.advance_setI_allButPcIndexKept _⟩

end Sys2Proof.Machine
end

section
/-! PROOFS. Timers and the keypad (R240 to R246). Said once: what a key skip answers on each side of R246's bound, which
slots `draw_key` can answer, and where a `wait-for-keypress` leads with and without a key; the statements follow. -/

namespace Sys2Proof.Machine

/-! ### Frames -/

/-- Everything but PC and the timers is unchanged. -/
def AllButPcTimersKept (s t : State) : Prop :=
  RegsKept [] s t ∧ MemKept s t ∧ IndexKept s t ∧ StackKept s t ∧ ScreenKept s t ∧ ControlKept s t

/-- After the advance a write of the timers changes the timers and nothing else. -/
theorem State.advance_setDt_setSt_allButPcTimersKept (s : State) (dt st : Byte) :
    AllButPcTimersKept s ((s.advance.setDt dt).setSt st) :=
  ⟨fun _ _ => rfl, fun _ => rfl, rfl, rfl, rfl, rfl, rfl, rfl, rfl⟩

/-! ### The key skips -/

/-- A key value up to 15 has the slot KEYMAP gives it (R246). -/
theorem slot_of_lt {v : Byte} (h : v.toNat < 16) : slot v = some (Config.keymap ⟨v.toNat, h⟩) := dif_pos h

/-- A key value above 15 has no slot (R246). -/
theorem slot_of_gt {v : Byte} (h : 15 < v.toNat) : slot v = none := dif_neg (Nat.not_lt.mpr h)

/-- With a slot a key skip skips when its flag is the wanted one (R243, R244). -/
theorem State.keySkip_of_lt {s : State} {x : Reg} (w : Word) (wanted : Bool) (h : (s.reg x).toNat < 16) :
    s.keySkip x w wanted = s.advance.skipIf (s.keys[Config.keymap ⟨(s.reg x).toNat, h⟩] == wanted) := by
  simp only [State.keySkip, slot_of_lt h]

/-- Without a slot a key skip raises KeyIndexOutOfRange with the key value (R246). -/
theorem State.keySkip_of_gt {s : State} {x : Reg} (w : Word) (wanted : Bool) (h : 15 < (s.reg x).toNat) :
    s.keySkip x w wanted = s.raise .keyIndexOutOfRange (some w) (some (zextByte (s.reg x))) := by
  simp only [State.keySkip, slot_of_gt h]

/-- With a slot `skip-if-key-pressed` is a skip on its flag (R243). -/
theorem exec_skipKeyPressed_of_lt {s : State} {x : Reg} (h : (s.reg x).toNat < 16) :
    exec (.skipKeyPressed x) s =
      .next (s.advance.skipIf (decide (s.keys[Config.keymap ⟨(s.reg x).toNat, h⟩] = true))) :=
  congrArg Host.Outcome.next (State.keySkip_of_lt _ true h)

/-- With a slot `skip-if-key-not-pressed` is a skip on the negation of its flag (R244). -/
theorem exec_skipKeyNotPressed_of_lt {s : State} {x : Reg} (h : (s.reg x).toNat < 16) :
    exec (.skipKeyNotPressed x) s =
      .next (s.advance.skipIf (decide ¬s.keys[Config.keymap ⟨(s.reg x).toNat, h⟩] = true)) := by
  simp only [Bool.not_eq_true]
  exact congrArg Host.Outcome.next (State.keySkip_of_lt _ false h)

/-! ### The drawn key -/

theorem mem_pressedSlots {keys : Keypad} {k : Slot} : k ∈ pressedSlots keys ↔ keys[k] = true := by
  simp [pressedSlots]

/-- No slot is drawn exactly when there is none to draw (R245). -/
theorem drawKey_eq_none_iff {pick : Nat} {pressed : List Slot} : drawKey pick pressed = none ↔ pressed = [] := by
  cases pressed with
  | nil => simp [drawKey]
  | cons k rest =>
    have hlt : pick % (rest.length + 1) < rest.length + 1 := Nat.mod_lt _ (Nat.succ_pos _)
    simpa [drawKey] using Nat.lt_succ_iff.mp hlt

/-- The slot drawn is one of those to draw from (R17). -/
theorem mem_of_drawKey {pick : Nat} {pressed : List Slot} {k : Slot} (h : drawKey pick pressed = some k) :
    k ∈ pressed := List.mem_of_getElem? h

/-- Each slot to draw from is drawn by its own index (R17). -/
theorem exists_drawKey {pressed : List Slot} {k : Slot} (h : k ∈ pressed) :
    ∃ pick, drawKey pick pressed = some k := by
  obtain ⟨pick, hlt, hk⟩ := List.getElem_of_mem h
  refine ⟨pick, ?_⟩
  rw [drawKey, Nat.mod_eq_of_lt hlt, List.getElem?_eq_getElem hlt, hk]

theorem keyOfSlot_toNat (k : Slot) : (keyOfSlot k).toNat = (Config.keymap.symm k).val := by
  rw [keyOfSlot, BitVec.toNat_ofNat]; omega

/-! ### Where a wait leads -/

/-- With no key pressed a `wait-for-keypress` takes the advance of PC back (R245). -/
theorem exec_waitForKeypress_of_none {s : State} (x : Reg) (h : ∀ k : Slot, s.keys[k] = false) :
    exec (.waitForKeypress x) s = .next (s.setPc s.pc) := by
  have hnone : pressedSlots s.keys = [] :=
    List.eq_nil_iff_forall_not_mem.mpr fun k hk => by simp [mem_pressedSlots, h k] at hk
  have hback : s.advance.setPc (s.advance.pc - 2#16) = s.setPc s.pc := by
    rw [State.advance_pc, BitVec.add_sub_cancel]; rfl
  simp only [exec, execWaitForKeypress, drawKey_eq_none_iff.mpr hnone, hback]

/-- With a slot drawn a `wait-for-keypress` puts its key value in V[x] (R245). -/
theorem exec_waitForKeypress_of_drawKey {s : State} (x : Reg) {k : Slot}
    (h : drawKey s.pick (pressedSlots s.keys) = some k) :
    exec (.waitForKeypress x) s = .next (s.advance.setReg x (keyOfSlot k)) := by
  simp only [exec, execWaitForKeypress, h]

/-- With a key pressed some pressed slot is drawn (R17, R245). -/
theorem State.exists_drawn_of_pressed {s : State} (h : ∃ k : Slot, s.keys[k] = true) :
    ∃ k : Slot, s.keys[k] = true ∧ drawKey s.pick (pressedSlots s.keys) = some k := by
  obtain ⟨j, hj⟩ := h
  have hsome : drawKey s.pick (pressedSlots s.keys) ≠ none :=
    mt drawKey_eq_none_iff.mp (List.ne_nil_of_mem (mem_pressedSlots.mpr hj))
  obtain ⟨k, hk⟩ := Option.ne_none_iff_exists'.mp hsome
  exact ⟨k, mem_pressedSlots.mp (mem_of_drawKey hk), hk⟩

/-! ### The statements -/

/-- Settles O40: the draw is none exactly with no key pressed, is a pressed slot else, and a host that fixes the pick
to the index of a pressed slot gets that slot. -/
theorem waitForKeypressPollsTheSnapshot : Obligations.WaitForKeypressPollsTheSnapshot := by
  refine ⟨decodesAs_of_encode_x .waitForKeypress fun _ => rfl, fun x s hnone => ?waits,
    fun x s hpressed => ?completes, fun x s k hk => ?reachable⟩
  case waits => exact ⟨_, exec_waitForKeypress_of_none x hnone, rfl, s.setPc_allButPcKept _⟩
  case completes =>
    obtain ⟨k, hk, hdrawn⟩ := State.exists_drawn_of_pressed hpressed
    refine ⟨_, exec_waitForKeypress_of_drawKey x hdrawn, s.advance_setReg_writesOnlyRegs _ _, k, hk, ?_⟩
    rw [State.setReg_reg_same, keyOfSlot_toNat]
  case reachable =>
    obtain ⟨pick, hdrawn⟩ := exists_drawKey (mem_pressedSlots.mpr hk)
    refine ⟨pick, _, exec_waitForKeypress_of_drawKey x hdrawn, ?_⟩
    rw [State.setReg_reg_same, keyOfSlot_toNat]

/-- Settles O38: the first two write one timer each, the third V[x]. -/
theorem timerInstructions : Obligations.TimerInstructions := by
  refine ⟨decodesAs_of_encode_x .setDelayTimer fun _ => rfl, decodesAs_of_encode_x .setSoundTimer fun _ => rfl,
    decodesAs_of_encode_x .readDelayTimer fun _ => rfl, fun x s => ⟨?setDelay, ?setSound, ?readDelay⟩⟩
  case setDelay =>
    exact ⟨s.advance.setDt (s.reg x), rfl, rfl, rfl, rfl, s.advance_setDt_setSt_allButPcTimersKept (s.reg x) s.st⟩
  case setSound =>
    exact ⟨s.advance.setSt (s.reg x), rfl, rfl, rfl, rfl, s.advance_setDt_setSt_allButPcTimersKept s.dt (s.reg x)⟩
  case readDelay => exact ⟨_, rfl, State.setReg_reg_same _ _ _, s.advance_setReg_writesOnlyRegs _ _⟩

/-- Settles O39, by the two sides of R246's bound: up to 15 both are skips on the flag of the slot, the second on its
negation; above it both raise with V[x]. -/
theorem keySkipsTestTheSnapshot : Obligations.KeySkipsTestTheSnapshot := by
  refine ⟨decodesAs_of_encode_x .skipKeyPressed fun _ => rfl, decodesAs_of_encode_x .skipKeyNotPressed fun _ => rfl,
    fun x s h => ?inRange, fun x s h => ?outOfRange⟩
  case inRange => exact ⟨exec_skip (exec_skipKeyPressed_of_lt h), exec_skip_not (exec_skipKeyNotPressed_of_lt h)⟩
  case outOfRange =>
    exact ⟨zextByte (s.reg x), zextByte_toNat _, ⟨_, rfl, State.keySkip_of_gt _ true h⟩,
      ⟨_, rfl, State.keySkip_of_gt _ false h⟩⟩

end Sys2Proof.Machine
end

section
/-! PROOFS. The display (R260 to R262). Said once: what a completed `draw` leaves on the screen and in VF, when a `draw`
completes, and what each kind of screen write leaves alone; the statements follow. -/

namespace Sys2Proof.Machine

/-! ### Pixels of the grid -/

/-- The pixels on the grid decide the framebuffer. -/
theorem Framebuffer.ext_pixel_of_grid {f g : Framebuffer}
    (h : ∀ x y, x < 64 → y < 32 → f.pixel x y = g.pixel x y) : f = g := by
  refine Framebuffer.ext_pixel fun x y => ?_
  by_cases hgrid : y < 32 ∧ x < 64
  · exact h x y hgrid.2 hgrid.1
  · rw [f.pixel_off_grid hgrid, g.pixel_off_grid hgrid]

/-! ### The drawing loop in a state -/

/-- What the loop of R262 leaves for `draw x y n` in a state: the screen, and whether a pixel went from on to off. -/
def State.drawn (s : State) (x y : Reg) (n : Nibble) : Canvas :=
  drawSprite s.fb (s.startX x) (s.startY y) (s.spriteRows n)

/-- A pixel of the grid is flipped exactly where the sprite has a 1 bit (R262). -/
theorem State.drawn_pixel (s : State) (x y : Reg) (n : Nibble) {px py : Nat} (hpx : px < 64) (hpy : py < 32) :
    (s.drawn x y n).fb.pixel px py = (s.fb.pixel px py ^^ s.spriteAt x y n px py) := by
  rw [State.drawn, drawSprite, drawRows_pixel _ _ _ _ hpx hpy, spriteBit_spriteRows]

/-- A collision is a pixel of the grid that was on where the sprite has a 1 bit (R262). -/
theorem State.drawn_hit (s : State) (x y : Reg) (n : Nibble) :
    (s.drawn x y n).hit = true ↔
      ∃ px py, px < 64 ∧ py < 32 ∧ s.spriteAt x y n px py = true ∧ s.fb.pixel px py = true := by
  simp only [State.drawn, drawSprite, drawRows_hit, spriteBit_spriteRows, Bool.false_eq_true, false_or]

/-- The sprite is decided by memory, I and the two registers of its place (R262). -/
theorem State.spriteAt_congr {s u : State} {x y : Reg} (hmem : u.mem = s.mem) (hi : u.i = s.i)
    (hx : u.reg x = s.reg x) (hy : u.reg y = s.reg y) (n : Nibble) : u.spriteAt x y n = s.spriteAt x y n := by
  funext px py
  simp only [State.spriteAt, hmem, hi, hx, hy]

/-! ### The outcome of a `draw` -/

theorem flagByte_eq_one_iff {f : Bool} : flagByte f = 1#8 ↔ f = true := by
  cases f <;> decide

/-- The state a `draw` that completes leads to: the loop's screen, then its collision in VF (R262). -/
def State.afterDraw (s : State) (x y : Reg) (n : Nibble) : State :=
  (s.advance.setFb (s.drawn x y n).fb).setReg VF (flagByte (s.drawn x y n).hit)

theorem State.afterDraw_fb (s : State) (x y : Reg) (n : Nibble) : (s.afterDraw x y n).fb = (s.drawn x y n).fb := rfl

theorem State.afterDraw_VF (s : State) (x y : Reg) (n : Nibble) :
    (s.afterDraw x y n).reg VF = flagByte (s.drawn x y n).hit := State.setReg_reg_same _ _ _

/-- A `draw` whose range is legal completes (R75, R262). -/
theorem exec_draw_of_legal {s : State} {n : Nibble} (x y : Reg) (h : s.rangeIllegal n.toNat = false) :
    exec (.draw x y n) s = .next (s.afterDraw x y n) :=
  congrArg Host.Outcome.next (State.accessing_legal _ _ h)

/-- A `draw` whose range is illegal raises MemoryOutOfBounds (R75, R262). -/
theorem exec_draw_of_illegal {s : State} {n : Nibble} (x y : Reg) (h : s.rangeIllegal n.toNat = true) :
    exec (.draw x y n) s =
      .next (s.raise .memoryOutOfBounds (some (encode (.draw x y n))) (some s.firstIllegal)) :=
  congrArg Host.Outcome.next (State.accessing_illegal _ _ h)

/-- A `draw` that ends Running had a legal range. -/
theorem rangeLegal_of_exec_draw {s t : State} {x y : Reg} {n : Nibble} (h : exec (.draw x y n) s = .next t)
    (ht : t.status = .running) : s.rangeIllegal n.toNat = false := by
  rw [← Bool.not_eq_true]
  intro hillegal
  rw [exec_draw_of_illegal x y hillegal] at h
  cases h
  cases ht

/-! ### Frames -/

/-- After the advance a write of the screen changes the screen and nothing else. -/
theorem State.advance_setFb_allButPcScreenKept (s : State) (f : Framebuffer) :
    AllButPcScreenRegsKept [] s (s.advance.setFb f) :=
  ⟨fun _ _ => rfl, fun _ => rfl, rfl, rfl, ⟨rfl, rfl⟩, rfl, rfl, rfl, rfl⟩

/-- A completed `draw` changes PC, the screen and VF and nothing else. -/
theorem State.afterDraw_allButPcScreenVFKept (s : State) (x y : Reg) (n : Nibble) :
    AllButPcScreenRegsKept [VF] s (s.afterDraw x y n) := by
  refine ⟨fun r hr => ?_, fun _ => rfl, rfl, rfl, ⟨rfl, rfl⟩, rfl, rfl, rfl, rfl⟩
  exact State.setReg_reg_other (List.ne_of_not_mem_cons hr)

/-! ### The statements -/

/-- Settles O47, by the two sides of the bound: within it the screen and the collision are those of the loop. -/
theorem drawFlipsTheSpritePixels : Obligations.DrawFlipsTheSpritePixels := by
  refine ⟨decodesAs_of_op rfl decode_opD, fun x y n s hlegal => ?completes, fun x y n s hn hillegal => ?faults⟩
  case completes =>
    have hrange : s.rangeIllegal n.toNat = false := by
      rw [← Bool.not_eq_true, State.rangeIllegal_iff]; omega
    refine ⟨_, exec_draw_of_legal x y hrange, rfl, s.afterDraw_allButPcScreenVFKept x y n,
      fun px py hpx hpy => s.drawn_pixel x y n hpx hpy, fun hhit => ?hit, fun hmiss => ?miss⟩
    case hit => rw [State.afterDraw_VF, flagByte_eq_one_iff, State.drawn_hit]; exact hhit
    case miss =>
      have hno : (s.drawn x y n).hit = false := by
        rw [← Bool.not_eq_true, State.drawn_hit]
        rintro ⟨px, py, hpx, hpy, hbit, hon⟩
        exact Bool.false_ne_true ((hmiss px py hpx hpy hbit).symm.trans hon)
      rw [State.afterDraw_VF, hno]; rfl
  case faults =>
    have hrange : s.rangeIllegal n.toNat = true := by rw [State.rangeIllegal_iff]; omega
    exact ⟨_, exec_draw_of_illegal x y hrange, s.firstIllegal, s.firstIllegal_toNat, rfl⟩

/-- Settles O48: both draws flip the same pixels, so the second undoes the first, and it meets a pixel that is on
where the first met one that was off. -/
theorem drawingTwiceRestoresTheScreen : Obligations.DrawingTwiceRestoresTheScreen := by
  intro x y n s t u v _ hfirst hrunning hfb hmem hi hx hy hsecond
  have hlegal := rangeLegal_of_exec_draw hfirst hrunning
  have hlegal' : u.rangeIllegal n.toNat = false := by rw [← hlegal, State.rangeIllegal, State.rangeIllegal, hi]
  have hsprite := State.spriteAt_congr hmem hi hx hy n
  rw [exec_draw_of_legal x y hlegal] at hfirst
  rw [exec_draw_of_legal x y hlegal'] at hsecond
  cases hfirst
  cases hsecond
  have hflipped {px py : Nat} (hpx : px < 64) (hpy : py < 32) :
      u.fb.pixel px py = (s.fb.pixel px py ^^ s.spriteAt x y n px py) := by
    rw [hfb, State.afterDraw_fb, s.drawn_pixel x y n hpx hpy]
  constructor
  · refine Framebuffer.ext_pixel_of_grid fun px py hpx hpy => ?_
    rw [State.afterDraw_fb, u.drawn_pixel x y n hpx hpy, hflipped hpx hpy, hsprite, Bool.xor_assoc, Bool.xor_self,
      Bool.xor_false]
  · rw [State.afterDraw_VF, flagByte_eq_one_iff, State.drawn_hit, hsprite]
    refine exists₂_congr fun px py => and_congr_right fun hpx => and_congr_right fun hpy =>
      and_congr_right fun hbit => ?_
    rw [hflipped hpx hpy, hbit, Bool.xor_true, Bool.not_eq_true']

/-- Settles O46: the screen written is the blank one. -/
theorem clearScreenBlanksTheScreen : Obligations.ClearScreenBlanksTheScreen := by
  refine ⟨decodesAs_of_word (by decide), fun s => ?_⟩
  exact ⟨_, rfl, rfl, fun px py _ _ => Framebuffer.blank_pixel px py, s.advance_setFb_allButPcScreenKept _⟩

end Sys2Proof.Machine
end

section
/-! PROOFS. Exceptions, ticks and the stop flag (R281 to R291, R300, R311, R321). Said once: that an engine step which
faults is the raise of its record, where an Unknown word leads, when the tick action is enabled, and what a step does
with nothing placed in memory; the statements follow. -/

namespace Sys2Proof.Machine

/-! ### Faults of the engine step -/

/-- An engine step that faults changes the status alone, whether the fetch, the decoder or the instruction raised
(R149, R290). -/
theorem engineStep_fault_precise {s t : State} {rec : FaultRecord} (hs : s.status = .running)
    (h : engineStep s = .next t) (ht : t.status = .faulted rec) :
    rec.addr = s.pc ∧ t = { s with status := .faulted rec } := by
  obtain ⟨cause, -, rfl⟩ | ⟨-, w, -, rfl⟩ | ⟨-, i, -, hexec⟩ := engineStep_cases h
  · cases ht; exact ⟨rfl, rfl⟩
  · cases ht; exact ⟨rfl, rfl⟩
  · exact faultOfAnInstructionIsPrecise i s t rec hs hexec ht

/-! ### Unknown words -/

/-- A word that is no named instruction decodes to Unknown, which carries the word (R113). -/
theorem decode_eq_unknown_of_ne_named {w : Word} (h : ∀ i, decode w ≠ .named i) : decode w = .unknown w := by
  cases hd : decode w with
  | named i => exact absurd hd (h i)
  | unknown u => rw [(decode_eq_unknown_iff.mp hd).1]

theorem engineStep_of_unknown {s : State} {w : Word} (hpc : fetchFault s.pc = none)
    (hw : decode s.fetchWord = .unknown w) : engineStep s = .next (s.raise .unknownOpcode (some w) none) := by
  simp only [engineStep, hpc, hw, execUnknown]

/-- A step that fetches an Unknown word answers the raise after the ticks before it: ticks leave PC and memory alone
(R282). -/
theorem step_of_unknown {s : State} {w : Word} (hs : s.ready) (hw : decode s.fetchWord = .unknown w) :
    step s = .next (s.elapse.raise .unknownOpcode (some w) none).consume := by
  obtain ⟨hstatus, hpc⟩ := hs
  exact step_of_engineStep hstatus (engineStep_of_unknown (by rwa [State.elapse_pc]) (by rwa [State.elapse_fetchWord]))

/-! ### The tick action -/

theorem act_tick_of_stop_clear {s : State} (h : s.stop = false) : act .tick s = .next s.tick := by
  simp [act, h]

theorem act_tick_of_stop_raised {s : State} (h : s.stop = true) : act .tick s = .refused .stopped := by
  simp [act, h]

/-! ### The stop flag -/

theorem State.raiseStop_status_of_running {s : State} (h : s.status = .running) : s.raiseStop.status = .stopped := by
  simp only [State.raiseStop, h]

theorem State.raiseStop_status_of_faulted {s : State} {rec : FaultRecord} (h : s.status = .faulted rec) :
    s.raiseStop.status = .faulted rec := by
  simp only [State.raiseStop, h]

/-! ### With nothing placed in memory -/

/-- From 0x200 up an unlisted address reads as 0 (R322). -/
theorem Memory.unlisted_of_progStart_le {a : Nat} (h : Config.progStart ≤ a) : Memory.unlisted a = 0#8 :=
  if_neg (Nat.not_lt.mpr h)

/-- With nothing placed in memory a fetch in the program area reads 0x0000 (R322). -/
theorem State.fetchWord_of_mem_nil {s : State} (hmem : s.mem = []) (hpc : Config.progStart ≤ s.pc.toNat) :
    s.fetchWord = 0x0000#16 := by
  have hnext : Config.progStart ≤ s.pc.toNat + 1 := Nat.le_succ_of_le hpc
  rw [State.fetchWord, hmem, Memory.read, Memory.read, Memory.unlisted_of_progStart_le hpc,
    Memory.unlisted_of_progStart_le hnext]
  rfl

/-- With nothing placed in memory the step raises UnknownOpcode with the word 0x0000 (R282, R321). -/
theorem step_of_mem_nil {s : State} (hs : s.ready) (hmem : s.mem = []) :
    step s = .next (s.elapse.raise .unknownOpcode (some 0x0000#16) none).consume := by
  have hpc : Config.progStart ≤ s.pc.toNat := ((fetchFault_none_iff _).mp hs.2).1
  have hunknown : decode 0x0000#16 = .unknown 0x0000#16 := by decide
  exact step_of_unknown hs (by rw [State.fetchWord_of_mem_nil hmem hpc, hunknown])

/-! ### The statements -/

/-- Settles O13: the engine step after the ticks is precise, ticks leave PC and the counter alone, and consuming the
inputs keeps the rest. -/
theorem faultOfAStepIsPrecise : Obligations.FaultOfAStepIsPrecise := by
  intro s t rec hstep ht
  obtain ⟨hs, u, hu, rfl⟩ := step_cases hstep
  obtain ⟨haddr, rfl⟩ := engineStep_fault_precise (s.elapse_status.trans hs) hu ht
  refine ⟨haddr.trans s.elapse_pc, ?_⟩
  rw [State.consume, State.elapse_clock]

/-- Settles O14: an execution that completes keeps the status, and one that does not is the raise of the one cause of
its kind. -/
theorem eachKindRaisesItsOneCause : Obligations.EachKindRaisesItsOneCause := by
  intro i s t hs h
  obtain ⟨hstatus, -⟩ | ⟨cause, info, hcause, rfl⟩ := exec_cases h
  · exact .inl (hstatus.trans hs)
  · exact .inr ⟨_, rfl, hcause, rfl⟩

/-- Settles O10: Unknown carries the fetched word, and the step is its raise. -/
theorem stepOnUnknownWordFaults : Obligations.StepOnUnknownWordFaults :=
  fun _ hs hw => ⟨_, step_of_unknown hs (decode_eq_unknown_of_ne_named hw), rfl⟩

/-- Settles O43, by the two values of the stop flag. -/
theorem tickCountsDown : Obligations.TickCountsDown := by
  refine ⟨fun s hclear => ⟨?dt, ?st, s.tick_eq, act_tick_of_stop_clear hclear⟩,
    fun s hraised => ⟨State.tick_stopped hraised, act_tick_of_stop_raised hraised⟩⟩
  case dt => rw [State.tick_running hclear]; exact countOne_toNat s.dt
  case st => rw [State.tick_running hclear]; exact countOne_toNat s.st

/-- Settles O54: the state loaded is ready at 0x200, and nothing is placed in its memory. -/
theorem emptyRomFaultsAtItsFirstStep : Obligations.EmptyRomFaultsAtItsFirstStep := by
  intro clock
  have hpc : fetchFault State.reset.pc = none := by decide
  refine ⟨{ State.reset with clock := clock }, _, loadRom_ok_iff.mpr ⟨Nat.zero_le _, rfl⟩,
    step_of_mem_nil ⟨rfl, hpc⟩ rfl, ?_⟩
  rw [State.consume_status, State.raise_status, State.elapse_pc]
  rfl

/-- Settles O55: the flag leaves no status in which a step is enabled, and a tick is not enabled with the flag
raised. -/
theorem stopFlagEndsStepsAndTicks : Obligations.StopFlagEndsStepsAndTicks := by
  intro s
  refine ⟨rfl, State.raiseStop_status_of_running, fun _ => State.raiseStop_status_of_faulted, rfl, fun t ht => ?_,
    act_tick_of_stop_raised rfl⟩
  exact s.raiseStop_status_ne_running ((step_next_iff _).mp ⟨t, ht⟩)

end Sys2Proof.Machine
end

section
/-! PROOFS. Reset and load (R320 to R323): the contents of memory at reset, and the two answers of a load. -/

namespace Sys2Proof.Machine

/-! ### Reset and load -/

/-- At reset every address reads as the launch parameters give it (R322). -/
@[simp] theorem State.reset_mem_read (a : Nat) : State.reset.mem.read a = Memory.unlisted a := Memory.read_nil a

/-- The loads that are rejected, and the length they answer (R321). -/
theorem loadRom_romTooLarge_iff {clock : Nat} {rom : List Byte} {n : Nat} :
    loadRom clock rom = .romTooLarge n ↔ Config.romMax < rom.length ∧ n = rom.length := by
  unfold loadRom
  split
  case isTrue hfits => simp [Nat.not_lt.mpr hfits]
  case isFalse hlong => simp [Nat.lt_of_not_le hlong, eq_comm]

/-! ### The statements -/

/-- Settles O52: the loaded memory is a write of consecutive bytes from 0x200 on over the reset memory. -/
theorem loadPlacesTheRom : Obligations.LoadPlacesTheRom := by
  intro clock rom hlen
  refine ⟨_, loadRom_ok_iff.mpr ⟨hlen, rfl⟩, fun k hk => ?_, fun a ha => ?_, rfl⟩
  · exact Memory.read_writeBytes_add _ Config.progStart hk
  · exact Memory.read_writeBytes_outside _ Config.progStart rom ha

/-- Settles O51: registers, screen and memory by their laws, every other component by its value in the reset state. -/
theorem resetLeavesTheValuesOfTheSpec : Obligations.ResetLeavesTheValuesOfTheSpec :=
  ⟨State.reset_reg, rfl, rfl, rfl, rfl, rfl, Framebuffer.blank_pixel, rfl, rfl, fun a _ => State.reset_mem_read a⟩

/-- Settles O53: the length a rejection answers is the ROM's own. -/
theorem loadRejectsExactlyTooLongRoms : Obligations.LoadRejectsExactlyTooLongRoms :=
  fun _ _ => loadRom_romTooLarge_iff.trans (and_iff_left rfl)

end Sys2Proof.Machine
end
